-- ==== Sys2Proof/Word.lean ====
section
/-! DEFINITION. The word types of the block (00_scope R12, 30_encoding R101, R104, R108): bytes, command words, response
words and event codes as they cross the ports. -/

namespace Sys2Proof

/-- A byte (00_scope R12). -/
abbrev Byte := BitVec 8

/-- A command word of port `CMD` (30_encoding R101). -/
abbrev CmdWord := BitVec 32

/-- A response word of port `RSP` (30_encoding R104). -/
abbrev RspWord := BitVec 16

/-- An event code of port `EVT` (30_encoding R108). -/
abbrev EvtWord := BitVec 2

/-- A binary32 encoding, as 32 raw bits (10_state R45). -/
abbrev F32 := BitVec 32

end Sys2Proof
end

