-- ==== Sys2Proof/Config.lean ====
section
/-! DEFINITION. The configuration record `CFG` (00_scope R10), the test configuration `TESTCFG`, the four event codes
(30_encoding R108) and the one free value of the model, the order of several pending events (60_exceptions R287). -/

namespace Sys2Proof

/-- The four event sources (30_encoding R108, 60_exceptions R284). -/
inductive EventCode where
  | subint | period | txrdy | edge
  deriving DecidableEq, Repr, Inhabited

/-- `EVT_ORDER` (00_scope R10, 60_exceptions R287). `anyOrder` is the open parameter: any pending event may be taken
next. `fixed` is a platform that fixes an order, as R287 lets it: the first pending event of the list is taken. -/
inductive EvtOrder where
  | anyOrder
  | fixed (order : List EventCode)
  deriving DecidableEq, Repr

/-- The configuration record `CFG` of 00_scope R10, one field per parameter, in the order of its table.
`timeoutPolls` has no observable effect and `settle` shows only as the argument of the `DELAY` action
(93_implementation_defined I18). -/
structure Config where
  nmodes : Nat
  holdW : Nat
  capMax : Nat
  rbCap : Nat
  devAddr : BitVec 7
  cmdMark : Byte
  timeoutPolls : Nat
  abortStop : Bool
  mBus : Nat
  mAdc : Nat
  mTx : Nat
  adcSamples : Nat
  adcW : Nat
  calTemp : F32
  calCode : Nat
  gradient : F32
  cfgSeq : List (Byte × Byte)
  offWrite : Byte × Byte
  refLow : Nat
  refHigh : Nat
  settle : Nat
  evtOrder : EvtOrder
  deriving DecidableEq, Repr

/-- `TESTCFG` (00_scope R10, last columns): the configuration of the spec's test vectors. -/
def Config.test : Config :=
  { nmodes := 4
    holdW := 8
    capMax := 255
    rbCap := 8
    devAddr := 0x39#7
    cmdMark := 0x80#8
    timeoutPolls := 1000
    abortStop := true
    mBus := 2
    mAdc := 2
    mTx := 3
    adcSamples := 4
    adcW := 12
    calTemp := 0x41C80000#32
    calCode := 100
    gradient := 0x41200000#32
    cfgSeq := [(0x00#8, 0x03#8), (0x01#8, 0x02#8)]
    offWrite := (0x00#8, 0x00#8)
    refLow := 2
    refHigh := 61
    settle := 1
    evtOrder := .anyOrder }

/-- The free choice of `EVT_ORDER` when it is open (60_exceptions R287, 92 D28): which source the n-th choice among
several pending events favours. No body: nothing can be proved of its value. notes/assumptions/7.md. -/
opaque Config.evtChoice : Nat → EventCode

end Sys2Proof
end

