-- ==== Sys2Proof/Syntax.lean ====
section
/-! DEFINITION. The operations of the block: one constructor of `Instr` per row of spec/opcode_table.json, ten commands
(30_encoding R102) and four events (R108). -/

namespace Sys2Proof

/-- One constructor per row of spec/opcode_table.json. Operands are whole bytes of the command word (30_encoding R103). -/
inductive Instr where
  /-- `ACQ m`: `acquire(mode)` (40_sleep_arbiter R132). -/
  | acq (mode : Byte)
  /-- `REL m`: `release(mode)` (40_sleep_arbiter R133). -/
  | rel (mode : Byte)
  /-- `SEL`: `selectDeepestAllowed()` (40_sleep_arbiter R134). -/
  | sel
  /-- `ENTER`: `enterSelected()` (40_sleep_arbiter R136). -/
  | enter
  /-- `ALLOC c`: `allocate(capacity)` (41_ring_fifo R150). -/
  | alloc (capacity : Byte)
  /-- `ENQ b`: `enqueue(byte)` (41_ring_fifo R151). -/
  | enq (byte : Byte)
  /-- `DEQ`: `dequeue()` (41_ring_fifo R152). -/
  | deq
  /-- `RDREG a`: `readRegister(address)` (42_serial_engine R190). -/
  | rdreg (address : Byte)
  /-- `WRREG a, v`: `writeRegister(address, value)` (42_serial_engine R191). -/
  | wrreg (address value : Byte)
  /-- `RDSR n`: read status register `n` (44_system R260). -/
  | rdsr (number : Byte)
  /-- Event `SUBINT`, the sub-interval boundary (43_duty_cycle_sequencer R211). -/
  | subint
  /-- Event `PERIOD`, the period boundary (43_duty_cycle_sequencer R212). -/
  | period
  /-- Event `TXRDY`, the transmitter is ready (43_duty_cycle_sequencer R235). -/
  | txrdy
  /-- Event `EDGE`, the external edge-detect (43_duty_cycle_sequencer R236). -/
  | edge
  deriving DecidableEq, Repr

/-- The ten defined opcodes (30_encoding R102). -/
inductive Opcode where
  | acq | rel | sel | enter | alloc | enq | deq | rdreg | wrreg | rdsr
  deriving DecidableEq, Repr

/-- One item crossing an input port: a command word on `CMD` or an event code on `EVT` (30_encoding R100). -/
inductive PortWord where
  | cmd (w : CmdWord)
  | evt (c : EvtWord)
  deriving DecidableEq, Repr

/-- The operation an event code stands for (30_encoding R108). -/
def EventCode.instr : EventCode → Instr
  | .subint => .subint
  | .period => .period
  | .txrdy => .txrdy
  | .edge => .edge

end Sys2Proof
end

