-- ==== Sys2Proof/Decode.lean ====
section
/-! DEFINITION. Decoding of port words, total, with a name for every illegal word (30_encoding R101, R102, R106, R108);
then the encoder, from the same tables. -/

namespace Sys2Proof

/-- Why a command word is illegal (30_encoding R106). All four are answered alike, `BadCommand`. -/
inductive DecodeReject where
  /-- `OP` is none of the ten opcodes. -/
  | reservedOpcode
  /-- The reserved field `Z` is not 0x00. -/
  | nonzeroZ
  /-- The command has no second operand and `B` is not 0x00. -/
  | unusedB
  /-- The command has no first operand and `A` is not 0x00. -/
  | unusedA
  deriving DecidableEq, Repr

/-- Field `OP`, bits 31:24 (30_encoding R101). -/
def fieldOp (w : CmdWord) : Byte := w.extractLsb' 24 8

/-- Field `A`, bits 23:16 (30_encoding R101). -/
def fieldA (w : CmdWord) : Byte := w.extractLsb' 16 8

/-- Field `B`, bits 15:8 (30_encoding R101). -/
def fieldB (w : CmdWord) : Byte := w.extractLsb' 8 8

/-- Field `Z`, bits 7:0 (30_encoding R101). -/
def fieldZ (w : CmdWord) : Byte := w.extractLsb' 0 8

/-- The opcode map, all eight bits matched (30_encoding R102). -/
def opcodeOf (op : Byte) : Option Opcode :=
  if op = 0x10#8 then some .acq
  else if op = 0x11#8 then some .rel
  else if op = 0x12#8 then some .sel
  else if op = 0x13#8 then some .enter
  else if op = 0x20#8 then some .alloc
  else if op = 0x21#8 then some .enq
  else if op = 0x22#8 then some .deq
  else if op = 0x30#8 then some .rdreg
  else if op = 0x31#8 then some .wrreg
  else if op = 0x40#8 then some .rdsr
  else none

/-- Whether the command has a first operand (30_encoding R102, R106). -/
def Opcode.usesA : Opcode → Bool
  | .sel | .enter | .deq => false
  | .acq | .rel | .alloc | .enq | .rdreg | .wrreg | .rdsr => true

/-- Whether the command has a second operand: `WRREG` alone (30_encoding R102, R106). -/
def Opcode.usesB : Opcode → Bool
  | .wrreg => true
  | .acq | .rel | .sel | .enter | .alloc | .enq | .deq | .rdreg | .rdsr => false

/-- The operation of an opcode with its operand bytes (30_encoding R103). -/
def Opcode.instr (a b : Byte) : Opcode → Instr
  | .acq => .acq a
  | .rel => .rel a
  | .sel => .sel
  | .enter => .enter
  | .alloc => .alloc a
  | .enq => .enq a
  | .deq => .deq
  | .rdreg => .rdreg a
  | .wrreg => .wrreg a b
  | .rdsr => .rdsr a

/-- Decoding of a command word (30_encoding R101, R102, R106). -/
def decodeCmd (w : CmdWord) : Except DecodeReject Instr :=
  match opcodeOf (fieldOp w) with
  | none => .error .reservedOpcode
  | some op =>
    if fieldZ w ≠ 0#8 then .error .nonzeroZ
    else if op.usesB = false ∧ fieldB w ≠ 0#8 then .error .unusedB
    else if op.usesA = false ∧ fieldA w ≠ 0#8 then .error .unusedA
    else .ok (op.instr (fieldA w) (fieldB w))

/-- The event a code names; every code is defined (30_encoding R108). -/
def decodeEvt (c : EvtWord) : EventCode :=
  if c = 0#2 then .subint
  else if c = 1#2 then .period
  else if c = 2#2 then .txrdy
  else .edge

/-- Decoding of one port item (30_encoding R100). -/
def decode : PortWord → Except DecodeReject Instr
  | .cmd w => decodeCmd w
  | .evt c => .ok (decodeEvt c).instr

/-- The instruction the decoder reads from a row's bits, numbered as spec/opcode_table.json numbers them. A row of at
most one byte is of format EVT (2-bit codes, so any higher bit set is no code); a longer one of format CMD. -/
def decodeTableWord (nbits w : Nat) : Option Instr :=
  if nbits ≤ 8 then
    if w < 4 then some (decodeEvt (BitVec.ofNat 2 w)).instr else none
  else if w < 2 ^ 32 then
    match decodeCmd (BitVec.ofNat 32 w) with
    | .ok i => some i
    | .error _ => none
  else none

/-- The opcode byte of a command (30_encoding R102). -/
def Opcode.byte : Opcode → Byte
  | .acq => 0x10#8
  | .rel => 0x11#8
  | .sel => 0x12#8
  | .enter => 0x13#8
  | .alloc => 0x20#8
  | .enq => 0x21#8
  | .deq => 0x22#8
  | .rdreg => 0x30#8
  | .wrreg => 0x31#8
  | .rdsr => 0x40#8

/-- The word `OP ++ A ++ B ++ Z` with `Z = 0x00` (30_encoding R101). -/
def cmdWord (op : Opcode) (a b : Byte) : CmdWord := op.byte ++ a ++ b ++ 0x00#8

/-- The code of an event (30_encoding R108). -/
def EventCode.code : EventCode → EvtWord
  | .subint => 0#2
  | .period => 1#2
  | .txrdy => 2#2
  | .edge => 3#2

/-- The encoder: what crosses the port for an operation (30_encoding R101, R102, R108). -/
def encode : Instr → PortWord
  | .acq m => .cmd (cmdWord .acq m 0#8)
  | .rel m => .cmd (cmdWord .rel m 0#8)
  | .sel => .cmd (cmdWord .sel 0#8 0#8)
  | .enter => .cmd (cmdWord .enter 0#8 0#8)
  | .alloc c => .cmd (cmdWord .alloc c 0#8)
  | .enq b => .cmd (cmdWord .enq b 0#8)
  | .deq => .cmd (cmdWord .deq 0#8 0#8)
  | .rdreg a => .cmd (cmdWord .rdreg a 0#8)
  | .wrreg a v => .cmd (cmdWord .wrreg a v)
  | .rdsr n => .cmd (cmdWord .rdsr n 0#8)
  | .subint => .evt EventCode.subint.code
  | .period => .evt EventCode.period.code
  | .txrdy => .evt EventCode.txrdy.code
  | .edge => .evt EventCode.edge.code

end Sys2Proof
end

