-- ==== Sys2Proof/Machine/State.lean ====
section
/-! DEFINITION. The state of the block as plain data: the cells of 10_state R30, the control position of R40, the
configuration record, and the model's own fields for the ports (the environment's answers and acts, the commands
presented, the output trace, the responses). Then the reasons a step can stop, and the state after reset (R60, 70 R310,
R313). -/

namespace Sys2Proof.Machine

/-- The storage of the ring as (address, byte) pairs, addresses strictly rising. An address that is not listed holds no
byte anyone may read (10_state R36: unspecified). notes/assumptions/8.md. -/
abbrev Memory := List Host.Cell

/-- `ctr`, the phase of the last period boundary (10_state R39). The encoding 3 is never produced (93 I20). -/
inductive Phase where
  | powerUp | dwell | tearDown
  deriving DecidableEq, Repr

/-- `thr`, the comparator threshold level (10_state R38). -/
inductive Level where
  | low | high
  deriving DecidableEq, Repr

/-- `out`, the output latch (10_state R41), one field per bit, bit 0 first. -/
structure OutLatch where
  excite : Bool
  pwrEn : Bool
  status : Bool
  edgeIrqEn : Bool
  acmpEn : Bool
  deriving DecidableEq, Repr

/-- `err`, the sticky error flags (10_state R42), one field per bit, bit 0 first. -/
structure ErrFlags where
  bufFull : Bool
  bufEmpty : Bool
  protoTimeout : Bool
  badCmd : Bool
  badOperand : Bool
  deriving DecidableEq, Repr

/-- `fault`, the sticky fatal flags (10_state R42), one field per bit, bit 0 first. -/
structure FaultFlags where
  sleepHoldMismatch : Bool
  holdOverflow : Bool
  deriving DecidableEq, Repr

/-- `pend`, the latched events (10_state R43), one field per bit; the bit number is the event code. -/
structure Pend where
  subint : Bool
  period : Bool
  txrdy : Bool
  edge : Bool
  deriving DecidableEq, Repr

/-- `ctx`, the context (00_scope R9, 10_state R44). -/
inductive Ctx where
  | main
  | handler
  | parked (mode : Nat)
  | faulted
  deriving DecidableEq, Repr

/-- The pins the block drives (10_state R58). -/
inductive Pin where
  | excite | pwrEn | status
  deriving DecidableEq, Repr

/-- The clock domains of boot (70_reset_and_hazards R313). -/
inductive ClockDomain where
  | timer | comparator | adc | serialBus | gpio
  deriving DecidableEq, Repr

/-- Master-to-bus symbols (42_serial_engine R171). -/
inductive BusSym where
  /-- `BUS_S`, start condition -/
  | start
  /-- `BUS_SR`, repeated start condition -/
  | repStart
  /-- `BUS_P`, stop condition -/
  | stop
  /-- `BUS_TX(b)`, a byte sent by the master -/
  | tx (b : Byte)
  /-- `BUS_MNACK`, not-acknowledge by the master -/
  | mnack
  deriving DecidableEq, Repr

/-- The actions the block can emit (10_state R58). -/
inductive Action where
  | gpio (pin : Pin) (level : Bool)
  | edgeIrq (enabled : Bool)
  | acmpEn
  | acmpDis
  | acmpRef (channel : Nat)
  | adcStart
  | txSend (b : Byte)
  | delay (duration : Nat)
  | bus (sym : BusSym)
  | park (mode : Nat)
  | parkNone
  | wake
  | edgeFwd
  | clkEn (domain : ClockDomain)
  deriving DecidableEq, Repr

/-- One element of a bus exchange (42_serial_engine R171): a symbol the master sends, an acknowledgment wait, or the
wait for the slave's byte. -/
inductive BusStep where
  | send (sym : BusSym)
  | ack
  | rx
  deriving DecidableEq, Repr

/-- The control position inside an operation that waits for an answer of the environment (10_state R40, `seq_step` and
`eng_step`): what is left of it, with the handler's temporaries. -/
inductive Task where
  /-- `RDREG` at a wait; the elements of its exchange from that wait on -/
  | readReg (left : List BusStep)
  /-- `WRREG` at a wait -/
  | writeReg (left : List BusStep)
  /-- `SUBINT` line 3 (43 R211) -/
  | subintWarm
  /-- `PERIOD` phase 0 inside a write; `rest` are the pairs of `CFG_SEQ` after it (43 R214) -/
  | powerUp (left : List BusStep) (rest : List (Byte × Byte))
  /-- `PERIOD` phase 2 inside the power-off write (43 R216) -/
  | tearDown (left : List BusStep)
  /-- `PERIOD` step 2 line 5: `more` conversions after this one, `sum` so far (43 R220) -/
  | adcDone (more sum : Nat)
  /-- `PERIOD` step 2 line 6 (43 R220) -/
  | adcResult (more sum : Nat)
  /-- `PERIOD` step 3 line 1 (43 R227) -/
  | acmpOut
  deriving DecidableEq, Repr

/-- The answers the environment has ready, per question of 10_state R59, in the order they will be given. For `busAck`,
`true` is `ACK` and `false` is `NOACK`; for `busRx`, `some v` is `DATA(v)` and `none` is `NODATA`. -/
structure Env where
  acmpWarm : List Bool
  acmpOut : List Bool
  adcDone : List Bool
  adcResult : List Nat
  busAck : List Bool
  busRx : List (Option Byte)
  deriving DecidableEq, Repr

/-- One answer of the environment (10_state R59). -/
inductive Answer where
  | acmpWarm (a : Bool)
  | acmpOut (a : Bool)
  | adcDone (a : Bool)
  | adcResult (code : Nat)
  | busAck (a : Bool)
  | busRx (a : Option Byte)
  deriving DecidableEq, Repr

/-- One act of the environment: an event arrives (10_state R43), a command word is presented on port `CMD`, an answer
becomes ready, or the block is reset with a configuration (70_reset_and_hazards R310). -/
inductive EnvAct where
  | event (e : EventCode)
  | command (w : CmdWord)
  | answer (a : Answer)
  | reset (c : Config)
  deriving DecidableEq, Repr

/-- The state of the block. The first group is the tuple of cells of 10_state R30; `task` is the control position of
R40; `cfg` is the configuration record (no operation but reset writes it); the last group is the model's own, the ports
as data (INVENTORY.md, notes/assumptions/1.md, 2.md, 15.md). -/
structure State where
  hold : List Nat
  rbCap : Byte
  rbHead : Byte
  rbTail : Byte
  rbCount : Byte
  rbMem : Memory
  ctr : Phase
  lastCmp : Bool
  led : Bool
  thr : Level
  temp : F32
  out : OutLatch
  err : ErrFlags
  fault : FaultFlags
  pend : Pend
  ctx : Ctx
  task : Option Task
  cfg : Config
  env : Env
  cmdIn : List CmdWord
  script : List (List EnvAct)
  trace : List Action
  rsp : List RspWord
  choiceIx : Nat
  deriving DecidableEq, Repr

/-- The faults of the model. Both report an access to a ring byte the spec says is not there; no state that meets the
ring invariant of 10_state R35 raises one. -/
inductive Fault where
  /-- A ring access at a cursor outside the storage in use (00_scope R14, 20_memory R71). Raised by `rbEnqueue` and
  `rbDequeue`. Safe: the block is never there. -/
  | ringAddress
  /-- A read of a ring byte that holds no queue content (10_state R36, unspecified). Raised by `rbDequeue`. Safe. -/
  | ringUnwritten
  deriving DecidableEq, Repr

/-- The refusals of the model. -/
inductive Refusal where
  /-- An instruction without a meaning. Raised by no arm of `exec`. Safe. -/
  | notModelled (mnemonic : String)
  /-- The configuration breaks a constraint of 00_scope R10 and so is no configuration of the block
  (93_implementation_defined I7, treatment `refuse`). Raised by every operation that runs. Safe. -/
  | invalidConfig
  /-- The environment answered `adc_result` with a code of more than `ADC_W` bits (10_state R59, 93 I13, treatment
  `refuse`). Raised by the `PERIOD` handler. Safe. -/
  | adcResultTooWide
  deriving DecidableEq, Repr

/-- What an operation or a step answers. -/
abbrev Out := Host.Outcome State Fault Refusal

/-- No output driven. -/
def OutLatch.zero : OutLatch := ⟨false, false, false, false, false⟩

/-- No error logged. -/
def ErrFlags.zero : ErrFlags := ⟨false, false, false, false, false⟩

/-- No fatal error logged. -/
def FaultFlags.zero : FaultFlags := ⟨false, false⟩

/-- No event pending. -/
def Pend.zero : Pend := ⟨false, false, false, false⟩

/-- No answer ready. -/
def Env.zero : Env := ⟨[], [], [], [], [], []⟩

/-- What boot emits, in this order (70_reset_and_hazards R313). -/
def bootTrace : List Action :=
  [.clkEn .timer, .clkEn .comparator, .clkEn .adc, .clkEn .serialBus, .clkEn .gpio]

/-- The block right after reset and boot under a configuration (10_state R60, 70 R310, R313). -/
def State.resetOf (c : Config) : State :=
  { hold := List.replicate c.nmodes 0
    rbCap := BitVec.ofNat 8 c.rbCap
    rbHead := 0#8
    rbTail := 0#8
    rbCount := 0#8
    rbMem := []
    ctr := .tearDown
    lastCmp := false
    led := false
    thr := .low
    temp := 0x00000000#32
    out := OutLatch.zero
    err := ErrFlags.zero
    fault := FaultFlags.zero
    pend := Pend.zero
    ctx := .main
    task := none
    cfg := c
    env := Env.zero
    cmdIn := []
    script := []
    trace := bootTrace
    rsp := []
    choiceIx := 0 }

/-- The machine right after reset, with the configuration `TESTCFG` of 00_scope R10 (notes/assumptions/4.md). -/
def State.reset : State := State.resetOf Config.test

end Sys2Proof.Machine
end

