-- ==== Sys2Proof/Machine/Flags.lean ====
section
/-! DEFINITION. The flags of the block (10_state R41 to R43): their bits as the status registers show them (R46), and the
rules that set and clear them one at a time. -/

namespace Sys2Proof.Machine

/-- A bit as a natural number. -/
def bit (b : Bool) : Nat := if b then 1 else 0

/-- The byte whose bits are given, bit 0 first; bits not given read 0 (10_state R46). -/
def byteOfBits (b0 b1 b2 b3 b4 : Bool) : Byte :=
  BitVec.ofNat 8 (bit b0 + 2 * bit b1 + 4 * bit b2 + 8 * bit b3 + 16 * bit b4)

/-- Status register `ERR` (10_state R46). -/
def errByte (e : ErrFlags) : Byte := byteOfBits e.bufFull e.bufEmpty e.protoTimeout e.badCmd e.badOperand

/-- Status register `FAULT` (10_state R46). -/
def faultByte (f : FaultFlags) : Byte := byteOfBits f.sleepHoldMismatch f.holdOverflow false false false

/-- Status register `OUT` (10_state R46). -/
def outByte (o : OutLatch) : Byte := byteOfBits o.excite o.pwrEn o.status o.edgeIrqEn o.acmpEn

/-- Status register `PEND` (10_state R46). -/
def pendByte (p : Pend) : Byte := byteOfBits p.subint p.period p.txrdy p.edge false

/-- Status register `DC_FLAGS` (10_state R46). -/
def dcFlagsByte (lastCmp led : Bool) (thr : Level) : Byte :=
  byteOfBits lastCmp led (thr == .high) false false

/-- Status register `DC_CTR` (10_state R39, R46): the number of the phase. -/
def Phase.byte : Phase → Byte
  | .powerUp => 0x00#8
  | .dwell => 0x01#8
  | .tearDown => 0x02#8

/-- `(ctr + 1) mod 3` (43_duty_cycle_sequencer R213). -/
def Phase.next : Phase → Phase
  | .powerUp => .dwell
  | .dwell => .tearDown
  | .tearDown => .powerUp

/-- The other threshold level (43_duty_cycle_sequencer R229). -/
def Level.toggle : Level → Level
  | .low => .high
  | .high => .low

/-- The non-fatal errors and their sticky flags (60_exceptions R271). -/
inductive ErrKind where
  | bufFull | bufEmpty | protoTimeout | badCmd | badOperand
  deriving DecidableEq, Repr

/-- The fatal errors and their sticky flags (60_exceptions R271). -/
inductive FatalKind where
  | sleepHoldMismatch | holdOverflow
  deriving DecidableEq, Repr

/-- Set one error flag; the others stay (60_exceptions R271 a). -/
def ErrFlags.set (e : ErrFlags) : ErrKind → ErrFlags
  | .bufFull => { e with bufFull := true }
  | .bufEmpty => { e with bufEmpty := true }
  | .protoTimeout => { e with protoTimeout := true }
  | .badCmd => { e with badCmd := true }
  | .badOperand => { e with badOperand := true }

/-- Set one fatal flag; the other stays (60_exceptions R271 a). -/
def FaultFlags.set (f : FaultFlags) : FatalKind → FaultFlags
  | .sleepHoldMismatch => { f with sleepHoldMismatch := true }
  | .holdOverflow => { f with holdOverflow := true }

/-- `fault ≠ 0`. -/
def FaultFlags.any (f : FaultFlags) : Bool := f.sleepHoldMismatch || f.holdOverflow

/-- The pending bit of a source (10_state R43). -/
def Pend.get (p : Pend) : EventCode → Bool
  | .subint => p.subint
  | .period => p.period
  | .txrdy => p.txrdy
  | .edge => p.edge

/-- Write the pending bit of a source; the others stay (10_state R43). -/
def Pend.put (p : Pend) (b : Bool) : EventCode → Pend
  | .subint => { p with subint := b }
  | .period => { p with period := b }
  | .txrdy => { p with txrdy := b }
  | .edge => { p with edge := b }

/-- `pend ≠ 0`. -/
def Pend.any (p : Pend) : Bool := p.subint || p.period || p.txrdy || p.edge

/-- The four sources in the order of their codes (30_encoding R108). -/
def allEvents : List EventCode := [.subint, .period, .txrdy, .edge]

/-- The pending sources in the order of their codes. -/
def Pend.events (p : Pend) : List EventCode := allEvents.filter p.get

/-- The sources in the order of their codes, beginning at one of them and going round. -/
def eventsFrom : EventCode → List EventCode
  | .subint => [.subint, .period, .txrdy, .edge]
  | .period => [.period, .txrdy, .edge, .subint]
  | .txrdy => [.txrdy, .edge, .subint, .period]
  | .edge => [.edge, .subint, .period, .txrdy]

/-- The status codes of a response (30_encoding R105). -/
inductive Status where
  | ok | bufferFull | bufferEmpty | protocolTimeout | sleepHoldMismatch | holdOverflow | badOperand | badCommand | faulted
  deriving DecidableEq, Repr

/-- The number of a status code (30_encoding R105). -/
def Status.code : Status → Byte
  | .ok => 0x00#8
  | .bufferFull => 0x01#8
  | .bufferEmpty => 0x02#8
  | .protocolTimeout => 0x03#8
  | .sleepHoldMismatch => 0x04#8
  | .holdOverflow => 0x05#8
  | .badOperand => 0x06#8
  | .badCommand => 0x07#8
  | .faulted => 0x08#8

/-- The response word `STATUS ++ DATA` (30_encoding R104). -/
def rspWord (st : Status) (data : Byte) : RspWord := st.code ++ data

end Sys2Proof.Machine
end

