-- ==== Sys2Proof/Machine/Float32.lean ====
section
/-! DEFINITION. Binary32 arithmetic of the calibration formula (43_duty_cycle_sequencer R225, R226): conversion from an
integer, division and subtraction, each exact over the integers and rounded once to nearest, ties to even. A case for
which the rules give no result (an operand that is no number, a zero divisor, the difference of two like infinities) is
`none`: with the constraints of 00_scope R10 it cannot arise. The format is from general knowledge, as R226 says
(notes/assumptions/14.md). -/

namespace Sys2Proof.Machine

/-- Sign, bit 31 (R226). -/
def f32Sign (x : F32) : Bool := x.getLsbD 31

/-- Biased exponent, bits 30:23 (R226). -/
def f32Exp (x : F32) : Nat := (x.extractLsb' 23 8).toNat

/-- Fraction, bits 22:0 (R226). -/
def f32Frac (x : F32) : Nat := (x.extractLsb' 0 23).toNat

/-- The encoding is of a finite number. -/
def f32Finite (x : F32) : Bool := f32Exp x ≠ 255

/-- The encoding is of an infinity. -/
def f32Infinite (x : F32) : Bool := f32Exp x = 255 ∧ f32Frac x = 0

/-- The encoding is `+0.0` or `-0.0`. -/
def f32Zero (x : F32) : Bool := f32Exp x = 0 ∧ f32Frac x = 0

/-- Significand of a finite encoding: its magnitude is `f32Mant x * 2 ^ f32Pow x`. -/
def f32Mant (x : F32) : Nat := if f32Exp x = 0 then f32Frac x else 2 ^ 23 + f32Frac x

/-- Power of two of a finite encoding (bias 127, 23 fraction bits). -/
def f32Pow (x : F32) : Int := if f32Exp x = 0 then -149 else (f32Exp x : Int) - 150

/-- The signed significand of a finite encoding. -/
def f32Int (x : F32) : Int := if f32Sign x then -(f32Mant x : Int) else (f32Mant x : Int)

/-- The quotient `n / d` rounded to the nearest natural, ties to even (R226). -/
def roundDiv (n d : Nat) : Nat :=
  if 2 * (n % d) < d then n / d
  else if d < 2 * (n % d) then n / d + 1
  else if n / d % 2 = 0 then n / d else n / d + 1

/-- The largest `e` with `2 ^ e ≤ n / d`, for `n` and `d` positive. -/
def floorLog2 (n d : Nat) : Int :=
  let k : Int := (Nat.log2 n : Int) - (Nat.log2 d : Int)
  if d * 2 ^ k.toNat ≤ n * 2 ^ (-k).toNat then k else k - 1

/-- A sign and a magnitude below `2 ^ 31` as an encoding. -/
def f32Pack (sign : Bool) (mag : Nat) : F32 :=
  BitVec.ofNat 32 (mag + if sign then 2 ^ 31 else 0)

/-- Magnitude bits of the infinities. -/
def f32InfMag : Nat := 0x7F800000

/-- The binary32 nearest to `± n / d`, `d` positive, ties to even; a zero keeps the sign given; a magnitude that rounds
beyond the largest finite one is an infinity of the right sign (R226). The exponent is at least -126, so small magnitudes
come out subnormal; a significand that rounds up to the next power of two carries into the exponent field. -/
def f32Round (sign : Bool) (n d : Nat) : F32 :=
  if n = 0 then f32Pack sign 0
  else
    let e : Int := max (floorLog2 n d) (-126)
    let m := roundDiv (n * 2 ^ (23 - e).toNat) (d * 2 ^ (e - 23).toNat)
    f32Pack sign (min ((e + 126).toNat * 2 ^ 23 + m) f32InfMag)

/-- The binary32 nearest to `± m * 2 ^ e`. -/
def f32RoundScaled (sign : Bool) (m : Nat) (e : Int) : F32 :=
  f32Round sign (m * 2 ^ e.toNat) (2 ^ (-e).toNat)

/-- `f32_of_int(d)` (00_scope R16, R226). -/
def f32OfInt (d : Int) : F32 := f32Round (d < 0) d.natAbs 1

/-- `f32_div(a, b)` (00_scope R16, R226) for a finite dividend and a finite divisor that is not a zero. -/
def f32Div (a b : F32) : Option F32 :=
  if f32Finite a ∧ f32Finite b ∧ ¬ f32Zero b then
    let e := f32Pow a - f32Pow b
    some (f32Round (f32Sign a ^^ f32Sign b) (f32Mant a * 2 ^ e.toNat) (f32Mant b * 2 ^ (-e).toNat))
  else none

/-- The exact difference of two finite encodings in units of `2 ^ f32DiffPow a b`. -/
def f32DiffPow (a b : F32) : Int := min (f32Pow a) (f32Pow b)

/-- See `f32DiffPow`. -/
def f32Diff (a b : F32) : Int :=
  f32Int a * 2 ^ (f32Pow a - f32DiffPow a b).toNat - f32Int b * 2 ^ (f32Pow b - f32DiffPow a b).toNat

/-- `f32_sub(a, b)` (00_scope R16, R226) for a finite minuend and a subtrahend that is finite or an infinity (a quotient
may have overflowed). An exact difference of zero is `+0.0`, but `-0.0` when `-0.0` loses `+0.0`. -/
def f32Sub (a b : F32) : Option F32 :=
  if ¬ f32Finite a then none
  else if f32Infinite b then some (f32Pack (!f32Sign b) f32InfMag)
  else if ¬ f32Finite b then none
  else
    let x := f32Diff a b
    if x = 0 then some (f32Pack (f32Zero a && f32Sign a && !f32Sign b) 0)
    else some (f32RoundScaled (x < 0) x.natAbs (f32DiffPow a b))

/-- `bytes_le(f)`: the four bytes of an encoding, least significant first (00_scope R16, 20_memory R75 a). -/
def f32Bytes (x : F32) : List Byte :=
  [x.extractLsb' 0 8, x.extractLsb' 8 8, x.extractLsb' 16 8, x.extractLsb' 24 8]

/-- `convert(mean)`: `CAL_TEMP - (CAL_CODE - mean) / GRADIENT`, the three operations in this order (R225). -/
def convert (c : Config) (mean : Nat) : Option F32 :=
  match f32Div (f32OfInt ((c.calCode : Int) - (mean : Int))) c.gradient with
  | none => none
  | some q => f32Sub c.calTemp q

end Sys2Proof.Machine
end

