-- ==== Sys2Proof/Machine/Operands.lean ====
section
/-! DEFINITION. The operand checks of the commands (30_encoding R103, R107), the listed status-register numbers
(10_state R46), the bytes of the bus (30_encoding R114, R115) and the constraints on `CFG` (00_scope R10, 93 I7). -/

namespace Sys2Proof.Machine

/-- The constraints of 00_scope R10 on the configuration record. A record that breaks one "is not a configuration of the
block" (93_implementation_defined I7). `RB_CAP ≥ 5` is no constraint: 43 R232 says what a smaller one does. -/
def configOk (c : Config) : Bool :=
  decide (2 ≤ c.nmodes) && decide (c.nmodes ≤ 16) && decide (1 ≤ c.holdW) && decide (c.holdW ≤ 8) &&
  decide (1 ≤ c.capMax) && decide (c.capMax ≤ 255) && decide (c.rbCap ≤ c.capMax) &&
  decide (1 ≤ c.timeoutPolls) &&
  decide (c.mBus < c.nmodes) && decide (c.mAdc < c.nmodes) && decide (c.mTx < c.nmodes) &&
  decide (1 ≤ c.adcSamples) && decide (c.adcSamples ≤ 255) && decide (1 ≤ c.adcW) && decide (c.adcW ≤ 16) &&
  f32Finite c.calTemp && decide (c.calCode < 2 ^ 16) &&
  f32Finite c.gradient && !f32Zero c.gradient &&
  decide (c.refLow ≠ c.refHigh)

/-- A mode operand is in range: `A < NMODES` (30_encoding R107). -/
def modeInRange (c : Config) (m : Byte) : Bool := decide (m.toNat < c.nmodes)

/-- A capacity operand is in range: `A ≤ CAP_MAX` (30_encoding R107). -/
def capInRange (c : Config) (n : Byte) : Bool := decide (n.toNat ≤ c.capMax)

/-- A status-register number is listed in 10_state R46: `0x00 .. NMODES-1`, `0x10 .. 0x13`, `0x20 .. 0x25`,
`0x30 .. 0x34` (44_system R260 c). -/
def srListed (c : Config) (n : Byte) : Bool :=
  decide (n.toNat < c.nmodes) ||
  (decide (0x10 ≤ n.toNat) && decide (n.toNat ≤ 0x13)) ||
  (decide (0x20 ≤ n.toNat) && decide (n.toNat ≤ 0x25)) ||
  (decide (0x30 ≤ n.toNat) && decide (n.toNat ≤ 0x34))

/-- The address byte of the write phase, `(DEV_ADDR << 1) OR 0` (30_encoding R114). -/
def addrW (c : Config) : Byte := c.devAddr ++ 0#1

/-- The address byte of the read phase, `(DEV_ADDR << 1) OR 1` (30_encoding R114). -/
def addrR (c : Config) : Byte := c.devAddr ++ 1#1

/-- The command byte `CMDB(a) = a OR CMD_MARK`, the same in both exchanges (30_encoding R115, 42 R176). -/
def cmdByte (c : Config) (a : Byte) : Byte := a ||| c.cmdMark

end Sys2Proof.Machine
end

