-- ==== Sys2Proof/Machine/Ops.lean ====
section
/-! DEFINITION. The shared operations over the state: the ring storage, the named updates, the raising of errors
(60_exceptions R271), the arrival, the taking and the return of events (R286, R289, R291), the procedures of the arbiter
(40_sleep_arbiter R130, R131) and of the ring (41_ring_fifo R153), and the acceptance of commands and events
(30_encoding R109, 60 R285). -/

namespace Sys2Proof.Machine

/-! ### The ring storage -/

/-- Addresses strictly rise: the one form of a memory. -/
def Memory.wf : Memory → Bool
  | [] => true
  | [_] => true
  | (a, _) :: (b, v) :: rest => decide (a < b) && Memory.wf ((b, v) :: rest)

/-- `MemRead(RING, a, 1)` (00_scope R14): the byte at an address, none where nothing may be read (10_state R36). -/
def Memory.read : Memory → Nat → Option Byte
  | [], _ => none
  | (k, v) :: rest, a => if k = a then some v else Memory.read rest a

/-- `MemWrite(RING, a, 1, v)` (00_scope R14). -/
def Memory.write : Memory → Nat → Byte → Memory
  | [], a, v => [(a, v)]
  | (k, w) :: rest, a, v =>
    if a < k then (a, v) :: (k, w) :: rest
    else if a = k then (a, v) :: rest
    else (k, w) :: Memory.write rest a v

/-- The byte at an address becomes unspecified (10_state R36). -/
def Memory.erase : Memory → Nat → Memory
  | [], _ => []
  | (k, v) :: rest, a => if k = a then Memory.erase rest a else (k, v) :: Memory.erase rest a

/-! ### Named updates -/

/-- `emit X`: append to the output trace (00_scope R15, 10_state R58). -/
def State.emit (s : State) (a : Action) : State := { s with trace := s.trace ++ [a] }

/-- The response of a command (30_encoding R104). -/
def State.respond (s : State) (st : Status) (data : Byte) : State := { s with rsp := s.rsp ++ [rspWord st data] }

/-- `hold[m]` (10_state R31). -/
def State.holdOf (s : State) (m : Nat) : Nat := s.hold.getD m 0

/-- `hold[m] <- v` (40_sleep_arbiter R130). -/
def State.setHold (s : State) (m v : Nat) : State := { s with hold := s.hold.set m v }

/-- Write the output latch (10_state R41). -/
def State.setOut (s : State) (o : OutLatch) : State := { s with out := o }

/-- Write the pending bits (10_state R43). -/
def State.setPend (s : State) (p : Pend) : State := { s with pend := p }

/-- Write the context (10_state R44). -/
def State.setCtx (s : State) (c : Ctx) : State := { s with ctx := c }

/-- Write the control position (10_state R40). -/
def State.setTask (s : State) (t : Option Task) : State := { s with task := t }

/-- Write the environment's ready answers. -/
def State.setEnv (s : State) (e : Env) : State := { s with env := e }

/-- `ctr <- p` (43_duty_cycle_sequencer R213). -/
def State.setCtr (s : State) (p : Phase) : State := { s with ctr := p }

/-- `temp <- t` (43_duty_cycle_sequencer R220). -/
def State.setTemp (s : State) (t : F32) : State := { s with temp := t }

/-- Drive a pin and keep its level in the latch (10_state R41). -/
def State.drive (s : State) (p : Pin) (l : Bool) : State :=
  (s.emit (.gpio p l)).setOut
    (match p with
     | .excite => { s.out with excite := l }
     | .pwrEn => { s.out with pwrEn := l }
     | .status => { s.out with status := l })

/-- Enable or disable the comparator and keep that in the latch (10_state R41). -/
def State.driveAcmp (s : State) (l : Bool) : State :=
  (s.emit (if l then .acmpEn else .acmpDis)).setOut { s.out with acmpEn := l }

/-- Enable or disable the edge-detect interrupt, keep that in the latch, and drop a latched edge: both arming and
disarming clear it (10_state R41, 43 R214 line 6, R216 line 1). -/
def State.driveEdgeIrq (s : State) (l : Bool) : State :=
  ((s.emit (.edgeIrq l)).setOut { s.out with edgeIrqEn := l }).setPend { s.pend with edge := false }

/-! ### Errors (60_exceptions R271) -/

/-- `raise` of a non-fatal error: its sticky flag and nothing else. -/
def State.raiseErr (s : State) (k : ErrKind) : State := { s with err := s.err.set k }

/-- `raise` of a fatal error: its sticky flag, `ctx <- FAULTED`, and the running operation ends there. -/
def State.raiseFatal (s : State) (k : FatalKind) : State :=
  { s with fault := s.fault.set k, ctx := .faulted, task := none }

/-! ### Events (60_exceptions R284 to R291) -/

/-- An event arrives (10_state R43, 60 R286, R288): its bit is set; an edge only while the edge interrupt is enabled.
DESIGN CHOICE: a second `PERIOD` that arrives while one is running is latched and taken afterwards, as R286, R289 and R291
have it, where R292 says that the two coalesce (notes/assumptions/25.md). -/
def State.latch (s : State) (e : EventCode) : State :=
  if e = .edge ∧ s.out.edgeIrqEn = false then s else s.setPend (s.pend.put true e)

/-- Taking an event, the entry of its handler (60 R289): clear its bit, `ctx <- HANDLER`. Nothing is saved. -/
def State.takeEvent (s : State) (e : EventCode) : State := (s.setPend (s.pend.put false e)).setCtx .handler

/-- The end of a handler (60 R291, 43 R210): `ctx <- MAIN`. -/
def State.handlerReturn (s : State) : State := s.setCtx .main

/-! ### Acceptance -/

/-- How a command runs (30_encoding R109, 60 R279, R282, R285). In `FAULTED` it is refused with status `Faulted`; in `MAIN`
with nothing running it runs; in `HANDLER`, `PARKED` or inside another command it is not accepted and nothing happens. A
record that is no configuration is refused (93 I7). -/
def onCommand (run : State → Out) (s : State) : Out :=
  if configOk s.cfg = false then .refused .invalidConfig
  else
    match s.ctx, s.task with
    | .faulted, _ => .next (s.respond .faulted 0x00#8)
    | .main, none => run s
    | .main, some _ => .next s
    | .handler, _ => .next s
    | .parked _, _ => .next s

/-- How an event runs (60 R285, R286, R288). In `MAIN` with nothing running it is taken and its handler runs; elsewhere it
is deferred: latched, not taken. -/
def onEvent (e : EventCode) (handler : State → Out) (s : State) : Out :=
  if configOk s.cfg = false then .refused .invalidConfig
  else
    match s.ctx, s.task with
    | .main, none => handler (s.takeEvent e)
    | .main, some _ => .next (s.latch e)
    | .handler, _ => .next (s.latch e)
    | .parked _, _ => .next (s.latch e)
    | .faulted, _ => .next (s.latch e)

/-- A command whose operand is out of range (30_encoding R107, 60 R277). -/
def State.badOperand (s : State) : State := (s.raiseErr .badOperand).respond .badOperand 0x00#8

/-! ### The arbiter's procedures (40_sleep_arbiter) -/

/-- How `acquire` and `release` end. -/
inductive HoldEnd where
  | ok (s : State)
  | fatal (s : State)
  deriving DecidableEq, Repr

/-- The top value of a hold counter, `2^HOLD_W - 1` (R130). -/
def holdTop (c : Config) : Nat := 2 ^ c.holdW - 1

/-- `acquire(m)` (R130, R139). -/
def acquire (m : Nat) (s : State) : HoldEnd :=
  if s.holdOf m = holdTop s.cfg then .fatal (s.raiseFatal .holdOverflow)
  else .ok (s.setHold m (s.holdOf m + 1))

/-- `release(m)` (R130, R139). -/
def release (m : Nat) (s : State) : HoldEnd :=
  if s.holdOf m = 0 then .fatal (s.raiseFatal .sleepHoldMismatch)
  else .ok (s.setHold m (s.holdOf m - 1))

/-- `min(B)`: the shallowest held mode, if any (R131). -/
def firstHeld (n : Nat) (h : List Nat) : Option Nat := (h.take n).findIdx? (fun c => decide (0 < c))

/-- `sel(h)` (R131): the mode just shallower than the shallowest held one, the deepest mode when none is held, `none`
(`NONE`) when mode 0 is held. -/
def sel (n : Nat) (h : List Nat) : Option Nat :=
  match firstHeld n h with
  | none => some (n - 1)
  | some 0 => none
  | some (k + 1) => some k

/-- `sel(hold)` of a state. -/
def State.selected (s : State) : Option Nat := sel s.cfg.nmodes s.hold

/-- A selection as a data byte: the mode index, or 0xFF for `NONE` (R134, 10_state R46). -/
def selByte : Option Nat → Byte
  | some m => BitVec.ofNat 8 m
  | none => 0xFF#8

/-! ### The ring's procedures (41_ring_fifo R153) -/

/-- `(c + 1) mod rb_cap` (R153, R155). -/
def advance (c cap : Byte) : Byte := BitVec.ofNat 8 ((c.toNat + 1) % cap.toNat)

/-- A cursor is inside the storage in use (20_memory R71) and inside the storage built (00_scope R14). -/
def cursorOk (s : State) (c : Byte) : Bool := decide (c.toNat < s.rbCap.toNat) && decide (c.toNat < s.cfg.capMax)

/-- `rb_allocate(c)`. The storage bytes are unspecified afterwards (10_state R36). -/
def State.rbAllocate (s : State) (c : Byte) : State :=
  { s with rbCap := c, rbHead := 0#8, rbTail := 0#8, rbCount := 0#8, rbMem := [] }

/-- How `rb_enqueue` ends. -/
inductive EnqEnd where
  | stored (s : State)
  | full (s : State)
  | fault (f : Fault)
  deriving DecidableEq, Repr

/-- `rb_enqueue(b)`. -/
def rbEnqueue (b : Byte) (s : State) : EnqEnd :=
  if s.rbCount = s.rbCap then .full (s.raiseErr .bufFull)
  else if cursorOk s s.rbHead = false then .fault .ringAddress
  else .stored
    { s with
      rbMem := Memory.write s.rbMem s.rbHead.toNat b
      rbHead := advance s.rbHead s.rbCap
      rbCount := s.rbCount + 1#8 }

/-- How `rb_dequeue` ends. -/
inductive DeqEnd where
  | taken (v : Byte) (s : State)
  | empty (s : State)
  | fault (f : Fault)
  deriving DecidableEq, Repr

/-- `rb_dequeue()`. The byte read becomes unspecified (10_state R36). -/
def rbDequeue (s : State) : DeqEnd :=
  if s.rbCount = 0#8 then .empty (s.raiseErr .bufEmpty)
  else if cursorOk s s.rbTail = false then .fault .ringAddress
  else
    match Memory.read s.rbMem s.rbTail.toNat with
    | none => .fault .ringUnwritten
    | some v => .taken v
        { s with
          rbMem := Memory.erase s.rbMem s.rbTail.toNat
          rbTail := advance s.rbTail s.rbCap
          rbCount := s.rbCount - 1#8 }

/-- The queue content (10_state R35): the bytes from the oldest on, as far as they can be read. -/
def queueFrom (m : Memory) (cap : Nat) (tail : Nat) : Nat → List (Option Byte)
  | 0 => []
  | n + 1 => Memory.read m tail :: queueFrom m cap ((tail + 1) % cap) n

/-- The queue content of a state, oldest first (10_state R35). -/
def State.queue (s : State) : List (Option Byte) :=
  queueFrom s.rbMem s.rbCap.toNat s.rbTail.toNat s.rbCount.toNat

end Sys2Proof.Machine
end

