-- ==== Sys2Proof/Machine/Arbiter.lean ====
section
/-! DEFINITION. The commands of the sleep arbiter: `ACQ`, `REL`, `SEL`, `ENTER` (40_sleep_arbiter R132 to R137). -/

namespace Sys2Proof.Machine

/-- `ACQ m` once accepted (R132). -/
def acqRun (m : Byte) (s : State) : Out :=
  if modeInRange s.cfg m = false then .next s.badOperand
  else
    match acquire m.toNat s with
    | .ok s' => .next (s'.respond .ok 0x00#8)
    | .fatal s' => .next (s'.respond .holdOverflow 0x00#8)

/-- `ACQ m` (R132). -/
def execAcq (m : Byte) (s : State) : Out := onCommand (acqRun m) s

/-- `REL m` once accepted (R133). -/
def relRun (m : Byte) (s : State) : Out :=
  if modeInRange s.cfg m = false then .next s.badOperand
  else
    match release m.toNat s with
    | .ok s' => .next (s'.respond .ok 0x00#8)
    | .fatal s' => .next (s'.respond .sleepHoldMismatch 0x00#8)

/-- `REL m` (R133). -/
def execRel (m : Byte) (s : State) : Out := onCommand (relRun m) s

/-- `SEL` once accepted (R134). -/
def selRun (s : State) : Out := .next (s.respond .ok (selByte s.selected))

/-- `SEL` (R134). -/
def execSel (s : State) : Out := onCommand selRun s

/-- The end of a park in mode `r` (R136, R137): `WAKE`, `ctx <- MAIN`, then `ENTER`'s response. -/
def State.wakeFrom (s : State) (r : Nat) : State :=
  ((s.emit .wake).setCtx .main).respond .ok (BitVec.ofNat 8 r)

/-- `ENTER` once accepted (R136). Selection and parking are one step; the response is withheld while parked; an event
already pending ends the park at once (corner case b). -/
def enterRun (s : State) : Out :=
  match s.selected with
  | none => .next ((s.emit .parkNone).respond .ok 0xFF#8)
  | some r =>
    let parked := (s.emit (.park r)).setCtx (.parked r)
    if s.pend.any then .next (parked.wakeFrom r) else .next parked

/-- `ENTER` (R136). -/
def execEnter (s : State) : Out := onCommand enterRun s

end Sys2Proof.Machine
end

