-- ==== Sys2Proof/Machine/Ring.lean ====
section
/-! DEFINITION. The commands of the byte ring: `ALLOC`, `ENQ`, `DEQ` (41_ring_fifo R150 to R152). -/

namespace Sys2Proof.Machine

/-- `ALLOC c` once accepted (R150). -/
def allocRun (c : Byte) (s : State) : Out :=
  if capInRange s.cfg c = false then .next s.badOperand
  else .next ((s.rbAllocate c).respond .ok 0x00#8)

/-- `ALLOC c` (R150). -/
def execAlloc (c : Byte) (s : State) : Out := onCommand (allocRun c) s

/-- `ENQ b` once accepted (R151). -/
def enqRun (b : Byte) (s : State) : Out :=
  match rbEnqueue b s with
  | .stored s' => .next (s'.respond .ok 0x00#8)
  | .full s' => .next (s'.respond .bufferFull 0x00#8)
  | .fault f => .fault f

/-- `ENQ b` (R151). -/
def execEnq (b : Byte) (s : State) : Out := onCommand (enqRun b) s

/-- `DEQ` once accepted (R152). -/
def deqRun (s : State) : Out :=
  match rbDequeue s with
  | .taken v s' => .next (s'.respond .ok v)
  | .empty s' => .next (s'.respond .bufferEmpty 0x00#8)
  | .fault f => .fault f

/-- `DEQ` (R152). -/
def execDeq (s : State) : Out := onCommand deqRun s

end Sys2Proof.Machine
end

