-- ==== Sys2Proof/Machine/Serial.lean ====
section
/-! DEFINITION. The serial register protocol engine: the frames (30_encoding R116), the run of an exchange with its waits
and its abandonment (42_serial_engine R172 to R175), and the commands `RDREG`, `WRREG` (R190, R191). -/

namespace Sys2Proof.Machine

/-- The frame of `readRegister(a)` (30_encoding R116, 42 R190). -/
def readFrame (c : Config) (a : Byte) : List BusStep :=
  [.send .start, .send (.tx (addrW c)), .ack, .send (.tx (cmdByte c a)), .ack,
   .send .repStart, .send (.tx (addrR c)), .ack, .rx, .send .mnack, .send .stop]

/-- The frame of `writeRegister(a, v)` (30_encoding R116, 42 R191). -/
def writeFrame (c : Config) (a v : Byte) : List BusStep :=
  [.send .start, .send (.tx (addrW c)), .ack, .send (.tx (cmdByte c a)), .ack, .send (.tx v), .ack, .send .stop]

/-- How a run of an exchange ends: it is complete (with the byte received, if one was), a wait timed out and it was
abandoned, or it is at a wait the environment has not answered yet, `left` from that wait on. -/
inductive BusEnd where
  | done (v : Byte) (s : State)
  | timeout (s : State)
  | waiting (left : List BusStep) (s : State)
  deriving DecidableEq, Repr

/-- `abandon()` (42 R175): one stop condition if `ABORT_STOP`, then `ProtocolTimeout` is raised. -/
def State.abandon (s : State) : State :=
  (if s.cfg.abortStop then s.emit (.bus .stop) else s).raiseErr .protoTimeout

/-- The run of an exchange, or of what is left of one (42 R173, R175, R190, R191). `v` is the byte received so far. -/
def busRun : List BusStep → Byte → State → BusEnd
  | [], v, s => .done v s
  | .send sym :: rest, v, s => busRun rest v (s.emit (.bus sym))
  | .ack :: rest, v, s =>
    match s.env.busAck with
    | [] => .waiting (.ack :: rest) s
    | true :: more => busRun rest v (s.setEnv { s.env with busAck := more })
    | false :: more => .timeout (s.setEnv { s.env with busAck := more }).abandon
  | .rx :: rest, _, s =>
    match s.env.busRx with
    | [] => .waiting (.rx :: rest) s
    | some b :: more => busRun rest b (s.setEnv { s.env with busRx := more })
    | none :: more => .timeout (s.setEnv { s.env with busRx := more }).abandon

/-- How `RDREG` goes on after a run of its exchange (42 R190). -/
def readEnd : BusEnd → Out
  | .done v s => .next (s.respond .ok v)
  | .timeout s => .next (s.respond .protocolTimeout 0x00#8)
  | .waiting left s => .next (s.setTask (some (.readReg left)))

/-- `RDREG a` once accepted (42 R190). -/
def rdregRun (a : Byte) (s : State) : Out := readEnd (busRun (readFrame s.cfg a) 0x00#8 s)

/-- `RDREG a` (42 R190). -/
def execRdreg (a : Byte) (s : State) : Out := onCommand (rdregRun a) s

/-- How `WRREG` goes on after a run of its exchange (42 R191). -/
def writeEnd : BusEnd → Out
  | .done _ s => .next (s.respond .ok 0x00#8)
  | .timeout s => .next (s.respond .protocolTimeout 0x00#8)
  | .waiting left s => .next (s.setTask (some (.writeReg left)))

/-- `WRREG a, v` once accepted (42 R191). -/
def wrregRun (a v : Byte) (s : State) : Out := writeEnd (busRun (writeFrame s.cfg a v) 0x00#8 s)

/-- `WRREG a, v` (42 R191). -/
def execWrreg (a v : Byte) (s : State) : Out := onCommand (wrregRun a v) s

end Sys2Proof.Machine
end

