-- ==== Sys2Proof/Machine/Sequencer.lean ====
section
/-! DEFINITION. The duty-cycle phase sequencer: the handlers of `SUBINT`, `PERIOD`, `TXRDY`, `EDGE`
(43_duty_cycle_sequencer R210 to R240), each as one function from its first action to its last, and the continuation of an
operation that waits for an answer (10_state R40). A handler ends early at a fatal error (R210), and stays at a question
the environment has not answered (70 R325). -/

namespace Sys2Proof.Machine

/-- The operation stays where it is, at a question without an answer yet. -/
def suspend (t : Task) (s : State) : Out := .next (s.setTask (some t))

/-- The rest of a handler after a hold was taken or dropped: a fatal error stops the handler there (R210). -/
def afterHold (k : State → Out) : HoldEnd → Out
  | .ok s => k s
  | .fatal s => .next s

/-! ### SUBINT (R211) -/

/-- Line 3: the answers up to the first `true` are consumed; with none, the handler stays at the wait. -/
def warmWait (s : State) : Out :=
  match s.env.acmpWarm.dropWhile (fun a => !a) with
  | [] => suspend .subintWarm (s.setEnv { s.env with acmpWarm := [] })
  | _ :: more => .next (s.setEnv { s.env with acmpWarm := more }).handlerReturn

/-- The handler of `SUBINT`. -/
def subintHandler (s : State) : Out := warmWait ((s.driveAcmp true).drive .excite true)

/-- Event `SUBINT` (R211). -/
def execSubint (s : State) : Out := onEvent .subint subintHandler s

/-! ### PERIOD step 5: hand-off to the transmitter (R230 to R233) -/

/-- The burst: the four bytes of `temp`, least significant first, then the status byte (R231). -/
def burst (s : State) : List Byte := f32Bytes s.temp ++ [if s.led then 0x01#8 else 0x00#8]

/-- Enqueue in order; the first failure ends it (R231, R232). -/
def enqueueAll : List Byte → State → EnqEnd
  | [], s => .stored s
  | b :: rest, s =>
    match rbEnqueue b s with
    | .stored s' => enqueueAll rest s'
    | .full s' => .full s'
    | .fault f => .fault f

/-- Send the oldest byte (R233 lines 2 and 3, R235 lines 2 and 3) and end the handler. -/
def sendNext (s : State) : Out :=
  match rbDequeue s with
  | .taken v s' => .next (s'.emit (.txSend v)).handlerReturn
  | .empty s' => .next s'.handlerReturn
  | .fault f => .fault f

/-- Step 5: discard, enqueue the burst, acquire `M_TX`, send the first byte; with a full ring the rest is skipped
(R230 to R233). -/
def handOff (s : State) : Out :=
  match enqueueAll (burst s) (s.rbAllocate (BitVec.ofNat 8 s.cfg.rbCap)) with
  | .stored s' => afterHold sendNext (acquire s'.cfg.mTx s')
  | .full s' => .next s'.handlerReturn
  | .fault f => .fault f

/-! ### PERIOD steps 3 and 4: comparator and hysteresis (R227 to R229) -/

/-- The reference channel of a level (R229 line 3). -/
def refChannel (c : Config) : Level → Nat
  | .low => c.refLow
  | .high => c.refHigh

/-- Step 3 after the read: disable the comparator, de-assert the excitation (R227 lines 2 and 3). -/
def State.comparatorOff (s : State) : State := (s.driveAcmp false).drive .excite false

/-- The toggles of a change (R229 lines 2 to 5). -/
def State.toggleOutputs (s : State) : State :=
  let s1 : State := { s with thr := s.thr.toggle }
  let s2 := s1.emit (.acmpRef (refChannel s.cfg s1.thr))
  let s3 : State := { s2 with led := !s.led }
  s3.drive .status s3.led

/-- Step 4: the toggles if the reading changed, then `last_cmp <- c` (R228, R229). -/
def State.hysteresis (s : State) (c : Bool) : State :=
  if c = s.lastCmp then { s with lastCmp := c } else { s.toggleOutputs with lastCmp := c }

/-- Steps 3 to 5 (R227 to R233). -/
def readComparator (s : State) : Out :=
  match s.env.acmpOut with
  | [] => suspend .acmpOut s
  | c :: more => handOff ((s.setEnv { s.env with acmpOut := more }).comparatorOff.hysteresis c)

/-! ### PERIOD step 2: temperature (R220 to R226) -/

/-- How one conversion ends: a code, a wait without an answer, or a code that is no answer (93 I13). -/
inductive Sample where
  | code (c : Nat) (s : State)
  | notDone (s : State)
  | noResult (s : State)
  | tooWide
  deriving DecidableEq, Repr

/-- Line 6: the result of a conversion that is done (R220). -/
def adcRead (s : State) : Sample :=
  match s.env.adcResult with
  | [] => .noResult s
  | c :: more => if c < 2 ^ s.cfg.adcW then .code c (s.setEnv { s.env with adcResult := more }) else .tooWide

/-- Lines 5 and 6: wait until done, then read (R220). -/
def adcWait (s : State) : Sample :=
  match s.env.adcDone.dropWhile (fun a => !a) with
  | [] => .notDone (s.setEnv { s.env with adcDone := [] })
  | _ :: more => adcRead (s.setEnv { s.env with adcDone := more })

/-- How the conversion loop ends. -/
inductive AdcEnd where
  | sum (total : Nat) (s : State)
  | waiting (t : Task) (s : State)
  | tooWide
  deriving DecidableEq, Repr

/-- Lines 3 to 7: `n` conversions, `total` so far (R220). -/
def adcLoop : Nat → Nat → State → AdcEnd
  | 0, total, s => .sum total s
  | n + 1, total, s =>
    match adcWait (s.emit .adcStart) with
    | .code c s' => adcLoop n (total + c) s'
    | .notDone s' => .waiting (.adcDone n total) s'
    | .noResult s' => .waiting (.adcResult n total) s'
    | .tooWide => .tooWide

/-- The loop from inside a conversion that was waiting, `more` conversions after it (R220). -/
def adcResume (more total : Nat) : Sample → AdcEnd
  | .code c s => adcLoop more (total + c) s
  | .notDone s => .waiting (.adcDone more total) s
  | .noResult s => .waiting (.adcResult more total) s
  | .tooWide => .tooWide

/-- Lines 8 to 10 and what follows (R220, R221, R225). -/
def storeTemp (total : Nat) (s : State) : Out :=
  match convert s.cfg (total / s.cfg.adcSamples) with
  | none => .refused .invalidConfig
  | some t => afterHold readComparator (release s.cfg.mAdc (s.setTemp t))

/-- How step 2 goes on after the conversion loop. -/
def adcEnd : AdcEnd → Out
  | .sum total s => storeTemp total s
  | .waiting t s => suspend t s
  | .tooWide => .refused .adcResultTooWide

/-- Steps 2 to 5 (R220 to R233). -/
def sampleTemp (s : State) : Out :=
  afterHold (fun s' => adcEnd (adcLoop s'.cfg.adcSamples 0 s')) (acquire s.cfg.mAdc s)

/-! ### PERIOD step 1: the power schedule (R213 to R217) -/

/-- How the writes of `CFG_SEQ` end. -/
inductive WritesEnd where
  | done (s : State)
  | waiting (t : Task) (s : State)
  deriving DecidableEq, Repr

/-- Phase 0 lines 4 and 5: the writes in order; a timeout leaves the loop (R214, R217). -/
def configWrites : List (Byte × Byte) → State → WritesEnd
  | [], s => .done s
  | (a, v) :: rest, s =>
    match busRun (writeFrame s.cfg a v) 0x00#8 s with
    | .done _ s' => configWrites rest s'
    | .timeout s' => .done s'
    | .waiting left s' => .waiting (.powerUp left rest) s'

/-- The writes from inside an exchange that was waiting (R214, R217). -/
def configResume (rest : List (Byte × Byte)) : BusEnd → WritesEnd
  | .done _ s => configWrites rest s
  | .timeout s => .done s
  | .waiting left s => .waiting (.powerUp left rest) s

/-- Phase 0 from line 6 on, and steps 2 to 5 (R214). -/
def powerUpEnd : WritesEnd → Out
  | .done s => sampleTemp (s.driveEdgeIrq true)
  | .waiting t s => suspend t s

/-- Phase 0, power-up, and what follows (R214). -/
def powerUpPhase (s : State) : Out :=
  afterHold
    (fun s' => powerUpEnd (configWrites s'.cfg.cfgSeq ((s'.drive .pwrEn true).emit (.delay s'.cfg.settle))))
    (acquire s.cfg.mBus s)

/-- Phase 2 lines 3 and 4, and what follows (R216). -/
def powerOff (s : State) : Out := afterHold sampleTemp (release s.cfg.mBus (s.drive .pwrEn false))

/-- Phase 2 after the power-off write; its result is not examined (R216, R217). -/
def tearDownEnd : BusEnd → Out
  | .done _ s => powerOff s
  | .timeout s => powerOff s
  | .waiting left s => suspend (.tearDown left) s

/-- Phase 2, tear-down, and what follows (R216). -/
def tearDownPhase (s : State) : Out :=
  tearDownEnd (busRun (writeFrame s.cfg s.cfg.offWrite.1 s.cfg.offWrite.2) 0x00#8 (s.driveEdgeIrq false))

/-- The handler of `PERIOD`: advance `ctr`, then the phase of the new value, then steps 2 to 5 (R212, R213). -/
def periodHandler (s : State) : Out :=
  match s.ctr.next with
  | .powerUp => powerUpPhase (s.setCtr .powerUp)
  | .dwell => sampleTemp (s.setCtr .dwell)
  | .tearDown => tearDownPhase (s.setCtr .tearDown)

/-- Event `PERIOD` (R212). -/
def execPeriod (s : State) : Out := onEvent .period periodHandler s

/-! ### TXRDY (R235) and EDGE (R236) -/

/-- The handler of `TXRDY`. -/
def txrdyHandler (s : State) : Out :=
  if s.rbCount = 0#8 then afterHold (fun s' => .next s'.handlerReturn) (release s.cfg.mTx s) else sendNext s

/-- Event `TXRDY` (R235). -/
def execTxrdy (s : State) : Out := onEvent .txrdy txrdyHandler s

/-- The handler of `EDGE`: the interrupt is forwarded. -/
def edgeHandler (s : State) : Out := .next (s.emit .edgeFwd).handlerReturn

/-- Event `EDGE` (R236). -/
def execEdge (s : State) : Out := onEvent .edge edgeHandler s

/-! ### Going on at a wait (10_state R40) -/

/-- What is left of an operation, from the question it waits at. -/
def resumeRun : Task → State → Out
  | .readReg left, s => readEnd (busRun left 0x00#8 s)
  | .writeReg left, s => writeEnd (busRun left 0x00#8 s)
  | .subintWarm, s => warmWait s
  | .powerUp left rest, s => powerUpEnd (configResume rest (busRun left 0x00#8 s))
  | .tearDown left, s => tearDownEnd (busRun left 0x00#8 s)
  | .adcDone more total, s => adcEnd (adcResume more total (adcWait s))
  | .adcResult more total, s => adcEnd (adcResume more total (adcRead s))
  | .acmpOut, s => readComparator s

/-- Go on with a suspended operation. -/
def resume (t : Task) (s : State) : Out :=
  if configOk s.cfg = false then .refused .invalidConfig else resumeRun t (s.setTask none)

end Sys2Proof.Machine
end

