-- ==== Sys2Proof/Machine/System.lean ====
section
/-! DEFINITION. The status registers (10_state R46, 20_memory R74) and the command `RDSR` (44_system R260). -/

namespace Sys2Proof.Machine

/-- `MemRead(SR, n, 1)`: the byte of a status register, computed from the state at that moment (10_state R46, 20_memory
R74); none for a number that is not listed. -/
def readSr (s : State) (n : Byte) : Option Byte :=
  if n.toNat < s.cfg.nmodes then some (BitVec.ofNat 8 (s.holdOf n.toNat % 2 ^ s.cfg.holdW))
  else if n = 0x10#8 then some s.rbCount
  else if n = 0x11#8 then some s.rbHead
  else if n = 0x12#8 then some s.rbTail
  else if n = 0x13#8 then some s.rbCap
  else if n = 0x20#8 then some s.ctr.byte
  else if n = 0x21#8 then some (dcFlagsByte s.lastCmp s.led s.thr)
  else if n = 0x22#8 then some (s.temp.extractLsb' 0 8)
  else if n = 0x23#8 then some (s.temp.extractLsb' 8 8)
  else if n = 0x24#8 then some (s.temp.extractLsb' 16 8)
  else if n = 0x25#8 then some (s.temp.extractLsb' 24 8)
  else if n = 0x30#8 then some (errByte s.err)
  else if n = 0x31#8 then some (faultByte s.fault)
  else if n = 0x32#8 then some (outByte s.out)
  else if n = 0x33#8 then some (pendByte s.pend)
  else if n = 0x34#8 then some (selByte s.selected)
  else none

/-- `RDSR n` once accepted in context `MAIN` (44_system R260). -/
def rdsrRun (n : Byte) (s : State) : Out :=
  match readSr s n with
  | none => .next s.badOperand
  | some v => .next (s.respond .ok v)

/-- `RDSR n` (44_system R260): the one command that still executes in `FAULTED`, where it sets no flag. -/
def execRdsr (n : Byte) (s : State) : Out :=
  match s.ctx, readSr s n with
  | .faulted, some v => if configOk s.cfg = false then .refused .invalidConfig else .next (s.respond .ok v)
  | _, _ => onCommand (rdsrRun n) s

/-- An illegal word once accepted (60 R278). -/
def illegalRun (s : State) : Out := .next ((s.raiseErr .badCmd).respond .badCommand 0x00#8)

/-- A command word that decodes to no operation (30_encoding R106, R109, 60 R278): `BadCommand`, or `Faulted` in
`FAULTED`. -/
def illegalWord (s : State) : Out := onCommand illegalRun s

end Sys2Proof.Machine
end

