-- ==== Sys2Proof/Machine/Dispatch.lean ====
section
/-! DEFINITION. One arm per operation. -/

namespace Sys2Proof.Machine

def exec (i : Instr) (s : State) : Host.Outcome State Fault Refusal :=
  match i with
  | .acq m => Sys2Proof.Machine.execAcq m s
  | .rel m => Sys2Proof.Machine.execRel m s
  | .sel => Sys2Proof.Machine.execSel s
  | .enter => Sys2Proof.Machine.execEnter s
  | .alloc c => Sys2Proof.Machine.execAlloc c s
  | .enq b => Sys2Proof.Machine.execEnq b s
  | .deq => Sys2Proof.Machine.execDeq s
  | .rdreg a => Sys2Proof.Machine.execRdreg a s
  | .wrreg a v => Sys2Proof.Machine.execWrreg a v s
  | .rdsr n => Sys2Proof.Machine.execRdsr n s
  | .subint => Sys2Proof.Machine.execSubint s
  | .period => Sys2Proof.Machine.execPeriod s
  | .txrdy => Sys2Proof.Machine.execTxrdy s
  | .edge => Sys2Proof.Machine.execEdge s

end Sys2Proof.Machine
end

