-- ==== Sys2Proof/Machine/Scheduler.lean ====
section
/-! DEFINITION. What one step does: the environment's acts of the step's slot (10_state R43, 60 R286, 70 R310), then one act
of the block, chosen by its context (60 R285): wake, go on with a suspended operation, take a pending event, or accept a
command. -/

namespace Sys2Proof.Machine

/-- An answer becomes ready, behind those already ready for its question (10_state R59). -/
def Env.push (e : Env) : Answer → Env
  | .acmpWarm a => { e with acmpWarm := e.acmpWarm ++ [a] }
  | .acmpOut a => { e with acmpOut := e.acmpOut ++ [a] }
  | .adcDone a => { e with adcDone := e.adcDone ++ [a] }
  | .adcResult c => { e with adcResult := e.adcResult ++ [c] }
  | .busAck a => { e with busAck := e.busAck ++ [a] }
  | .busRx a => { e with busRx := e.busRx ++ [a] }

/-- Reset, in any context (70 R310): every cell takes its reset value, the configuration is the one supplied, what was
running is dropped without a response, and boot emits its actions (R313). The ports' logs and queues are the outside's. -/
def State.resetWith (s : State) (c : Config) : State :=
  { State.resetOf c with
    env := s.env
    cmdIn := s.cmdIn
    script := s.script
    trace := s.trace ++ bootTrace
    rsp := s.rsp
    choiceIx := s.choiceIx }

/-- One act of the environment. -/
def State.envAct (s : State) : EnvAct → State
  | .event e => s.latch e
  | .command w => { s with cmdIn := s.cmdIn ++ [w] }
  | .answer a => s.setEnv (s.env.push a)
  | .reset c => s.resetWith c

/-- The environment's acts of this step's slot, in order; without a slot it does nothing.
DESIGN CHOICE: these acts come between two steps, so a reset lands between two operations or at a question the running one
waits at, never between two actions with none between; 70 R310 does not say where it may (notes/assumptions/26.md). -/
def State.environment (s : State) : State :=
  match s.script with
  | [] => s
  | acts :: rest => acts.foldl State.envAct { s with script := rest }

/-- The open choice among several pending events: the source the free value favours, or the next pending one after it
(60 R287). Every pending source is chosen for some free value. -/
def freeChoice (favoured : EventCode) (p : Pend) : Option EventCode := (eventsFrom favoured).find? p.get

/-- The pending event that is taken, and the state that has made the choice (60 R285 a, R287). One pending event needs no
choice; several are ordered by the platform's `EVT_ORDER` if it fixes one, else by the free value.
DESIGN CHOICE: neither is asked to be fair, so while other sources keep arriving a pending event may wait for ever, where R287
also says that each is taken after finitely many handlers (notes/assumptions/7.md). -/
def pickEvent (s : State) : Option (EventCode × State) :=
  match s.pend.events with
  | [] => none
  | [e] => some (e, s)
  | _ :: _ :: _ =>
    match (match s.cfg.evtOrder with
           | .fixed order => order.find? s.pend.get
           | .anyOrder => none) with
    | some e => some (e, s)
    | none =>
      match freeChoice (Config.evtChoice s.choiceIx) s.pend with
      | some e => some (e, { s with choiceIx := s.choiceIx + 1 })
      | none => none

/-- The command at the port, if one is presented, is accepted and runs (30_encoding R109, 60 R285 b). -/
def serveCommand (s : State) : Out :=
  match s.cmdIn with
  | [] => .next s
  | w :: rest =>
    match decodeCmd w with
    | .ok i => exec i { s with cmdIn := rest }
    | .error _ => illegalWord { s with cmdIn := rest }

/-- One act of the block (60 R285). -/
def serve (s : State) : Out :=
  match s.ctx, s.task with
  | .faulted, _ => serveCommand s
  | .parked m, _ => .next (if s.pend.any then s.wakeFrom m else s)
  | .handler, none => .next s.handlerReturn
  | .handler, some t => resume t s
  | .main, some t => resume t s
  | .main, none =>
    match pickEvent s with
    | some (e, s') => exec e.instr s'
    | none => serveCommand s

/-- The state in which only one event is pending and nothing else is due before it. -/
def State.withEvent (s : State) (e : EventCode) : State :=
  { s with
    script := [] :: s.script
    pend := Pend.zero.put true e
    task := none
    fault := FaultFlags.zero
    ctx := .main }

/-- The state in which a command word is the next thing served: nothing is pending, nothing runs, nobody is parked. A
block in `FAULTED` stays there and serves the word as it serves commands there. -/
def State.withCommand (s : State) (w : CmdWord) : State :=
  { s with
    script := [] :: s.script
    cmdIn := w :: s.cmdIn
    pend := Pend.zero
    task := none
    ctx := if s.ctx = .faulted then .faulted else .main }

end Sys2Proof.Machine
end

