-- ==== Sys2Proof/Machine/Step.lean ====
section
/-! DEFINITION. The step of the machine, and the state whose next step runs a given port word. -/

namespace Sys2Proof.Machine

/-- One step: the environment's acts of the step's slot, then one act of the block (60_exceptions R285). -/
def step (s : State) : Host.Outcome State Fault Refusal := serve s.environment

/-- The state whose very next step runs the operation with the bits given, numbered as spec/opcode_table.json numbers them:
a row of at most one byte is an event, which becomes the only pending one; a longer row is a command word, which is
presented at the command port. notes/assumptions/10.md. -/
def State.withFetchWord (s : State) (nbits w : Nat) : State :=
  if nbits ≤ 8 then s.withEvent (decodeEvt (BitVec.ofNat 2 w)) else s.withCommand (BitVec.ofNat 32 w)

end Sys2Proof.Machine
end

