-- ==== Sys2Proof/Safety.lean ====
section
/-! DEFINITION. What counts as a good state and a good run: the block is not in `FAULTED` (93_implementation_defined I3),
nobody misused the ring (I5), and the invariants that the rules give the cells (10_state R31, R35, R41, R43, R44;
43_duty_cycle_sequencer R218, R221, R226, R237). Also the runs that statements speak of. -/

namespace Sys2Proof.Machine

/-- The block did not stop on a fatal error (93 I3). -/
abbrev State.good (s : State) : Prop := s.ctx ≠ .faulted

/-- No caller broke the ring's contract so far (93 I5). -/
abbrev State.ringUsedWell (s : State) : Prop := s.err.bufFull = false ∧ s.err.bufEmpty = false

/-- The block can accept a command or take an event: context `MAIN`, nothing running, a configuration that meets 00_scope
R10. -/
abbrev Ready (s : State) : Prop := configOk s.cfg = true ∧ s.ctx = .main ∧ s.task = none

/-- The task belongs to a handler, not to a command. -/
def Task.inHandler : Task → Bool
  | .readReg _ => false
  | .writeReg _ => false
  | .subintWarm => true
  | .powerUp _ _ => true
  | .tearDown _ => true
  | .adcDone _ _ => true
  | .adcResult _ _ => true
  | .acmpOut => true

/-- The platform supplies configurations that meet 00_scope R10, now and at every reset to come (70 R312, 93 I7). -/
structure PlatformOk (s : State) : Prop where
  config : configOk s.cfg = true
  resets : ∀ acts ∈ s.script, ∀ c, EnvAct.reset c ∈ acts → configOk c = true

/-- The hold table has one counter per mode, each within its width (10_state R31, R32). -/
structure HoldOk (s : State) : Prop where
  modes : s.hold.length = s.cfg.nmodes
  width : ∀ n ∈ s.hold, n ≤ holdTop s.cfg

/-- The ring invariant (10_state R35), and the storage holds exactly the bytes of the queue content (R36). -/
structure RingOk (s : State) : Prop where
  count : s.rbCount.toNat ≤ s.rbCap.toNat
  cap : s.rbCap.toNat ≤ s.cfg.capMax
  cursors : 0 < s.rbCap.toNat →
    s.rbHead.toNat < s.rbCap.toNat ∧ s.rbTail.toNat < s.rbCap.toNat ∧
      s.rbHead.toNat = (s.rbTail.toNat + s.rbCount.toNat) % s.rbCap.toNat
  noStorage : s.rbCap.toNat = 0 → s.rbHead.toNat = 0 ∧ s.rbTail.toNat = 0 ∧ s.rbCount.toNat = 0
  canonical : Memory.wf s.rbMem = true
  content : ∀ a, (Memory.read s.rbMem a).isSome = true ↔
    ∃ k, k < s.rbCount.toNat ∧ a = (s.rbTail.toNat + k) % s.rbCap.toNat

/-- The context agrees with the fatal flags, the parked mode with the selection, the running operation with the context
(10_state R44, 40_sleep_arbiter R136 a, e). -/
structure ContextOk (s : State) : Prop where
  faulted : s.ctx = .faulted ↔ s.fault.any = true
  parked : ∀ m, s.ctx = .parked m → m < s.cfg.nmodes ∧ s.selected = some m
  handler : s.ctx = .handler → s.task.isSome = true
  running : ∀ t, s.task = some t → s.ctx = if t.inHandler then .handler else .main

/-- The latches agree with the cells they mirror; an edge is pending only while the edge interrupt is enabled (10_state R41,
R43, 43 R237). -/
structure LatchesOk (s : State) : Prop where
  status : s.out.status = s.led
  level : s.thr = .high ↔ s.led = true
  edge : s.pend.edge = true → s.out.edgeIrqEn = true

/-- The power schedule (43 R214, R216, R218): power is off after a tear-down, and the edge interrupt is enabled only inside
the powered-up window. -/
structure ScheduleOk (s : State) : Prop where
  powered : s.out.edgeIrqEn = true → s.out.pwrEn = true ∧ s.ctr ≠ .tearDown
  off : s.ctr = .tearDown → s.out.pwrEn = true → ∃ left, s.task = some (.tearDown left)
  poweringUp : ∀ left rest, s.task = some (.powerUp left rest) → s.ctr = .powerUp ∧ s.out.pwrEn = true
  tearingDown : ∀ left, s.task = some (.tearDown left) → s.ctr = .tearDown

/-- The sum of the conversions so far is in range (43 R221). -/
def sumOk (c : Config) (more total : Nat) : Prop :=
  more < c.adcSamples ∧ total ≤ (c.adcSamples - 1 - more) * (2 ^ c.adcW - 1)

/-- The temperature is a number or an infinity, never a NaN (43 R226, 93 I21), and the sum of a running sampling is in range
(R221). -/
structure NumbersOk (s : State) : Prop where
  temp : f32Finite s.temp = true ∨ f32Infinite s.temp = true
  done : ∀ more total, s.task = some (.adcDone more total) → sumOk s.cfg more total
  result : ∀ more total, s.task = some (.adcResult more total) → sumOk s.cfg more total

/-- The invariant of the block. -/
structure BlockInv (s : State) : Prop where
  platform : PlatformOk s
  hold : HoldOk s
  ring : RingOk s
  context : ContextOk s
  latches : LatchesOk s
  schedule : ScheduleOk s
  numbers : NumbersOk s

/-- The same state with more answers of the environment ready, behind those already there. -/
def State.moreAnswers (s : State) (e : Env) : State :=
  s.setEnv
    { acmpWarm := s.env.acmpWarm ++ e.acmpWarm
      acmpOut := s.env.acmpOut ++ e.acmpOut
      adcDone := s.env.adcDone ++ e.adcDone
      adcResult := s.env.adcResult ++ e.adcResult
      busAck := s.env.busAck ++ e.busAck
      busRx := s.env.busRx ++ e.busRx }

/-- Operations run one after the other, each with the answers the environment gives it, each complete and back in `MAIN`
before the next; none if one of them stops, faults, parks or waits. -/
def runOps : List (Instr × Env) → State → Option State
  | [], s => some s
  | (i, e) :: rest, s =>
    match exec i (s.setEnv e) with
    | .next s' => if s'.ctx = .main ∧ s'.task = none then runOps rest s' else none
    | .fault _ => none
    | .refused _ => none

/-- An action drives the power-enable output. -/
def Action.isPower : Action → Bool
  | .gpio .pwrEn _ => true
  | .gpio .excite _ => false
  | .gpio .status _ => false
  | .edgeIrq _ => false
  | .acmpEn => false
  | .acmpDis => false
  | .acmpRef _ => false
  | .adcStart => false
  | .txSend _ => false
  | .delay _ => false
  | .bus _ => false
  | .park _ => false
  | .parkNone => false
  | .wake => false
  | .edgeFwd => false
  | .clkEn _ => false

/-- Enqueue a list of bytes, none if one does not fit. -/
def enqueueBytes : List Byte → State → Option State
  | [], s => some s
  | b :: rest, s =>
    match rbEnqueue b s with
    | .stored s' => enqueueBytes rest s'
    | .full _ => none
    | .fault _ => none

/-- Dequeue so many bytes, none if one is missing. -/
def dequeueBytes : Nat → State → Option (List Byte × State)
  | 0, s => some ([], s)
  | n + 1, s =>
    match rbDequeue s with
    | .taken v s' =>
      match dequeueBytes n s' with
      | some (vs, s'') => some (v :: vs, s'')
      | none => none
    | .empty _ => none
    | .fault _ => none

end Sys2Proof.Machine
end

