-- ==== Sys2Proof/WellFormed.lean ====
section
/-! DEFINITION. When an operation is well formed: its operands pass the range checks of 30_encoding R107 under the
configuration. Operands are bytes by type, so every operation has an encoding; R107's ranges are value checks made after
decoding, and the block answers `BadOperand` where one fails. -/

namespace Sys2Proof

/-- The operands are in range (30_encoding R107). -/
def Instr.wellFormed (c : Config) : Instr → Bool
  | .acq m => Machine.modeInRange c m
  | .rel m => Machine.modeInRange c m
  | .sel => true
  | .enter => true
  | .alloc n => Machine.capInRange c n
  | .enq _ => true
  | .deq => true
  | .rdreg _ => true
  | .wrreg _ _ => true
  | .rdsr n => Machine.srListed c n
  | .subint => true
  | .period => true
  | .txrdy => true
  | .edge => true

end Sys2Proof
end

