-- ==== Sys2Proof/Certificates/Slice0/Obligations.lean ====
section
/-! DEFINITION. The statements about the block, from the numbered rules of spec/. Exact next states are written as record
updates of the state before, so that every cell not named is unchanged. -/

open Sys2Proof Sys2Proof.Machine

/-! ### Words the statements share -/

namespace Sys2Proof.Machine

/-- The master symbols of a frame, in order, as actions (42 R171). -/
def symbolsOf : List BusStep → List Action
  | [] => []
  | .send sym :: rest => .bus sym :: symbolsOf rest
  | .ack :: rest => symbolsOf rest
  | .rx :: rest => symbolsOf rest

/-- The waits of a frame. -/
def waitsOf : List BusStep → Nat
  | [] => 0
  | .send _ :: rest => waitsOf rest
  | .ack :: rest => waitsOf rest + 1
  | .rx :: rest => waitsOf rest + 1

/-- The run from `s` to `t` has asked the two questions of a bus wait so often, in order, was answered `acks` and `bytes`, and
has asked no other (10_state R59, 42 R173). -/
def BusAsked (s t : State) (acks : List Bool) (bytes : List (Option Byte)) : Prop :=
  s.env = { t.env with busAck := acks ++ t.env.busAck, busRx := bytes ++ t.env.busRx }

/-- What an abandoned exchange still sends (42 R175). -/
def abandonTrace (c : Config) : List Action := if c.abortStop then [.bus .stop] else []

/-- `err` with `PROTO_TIMEOUT` set. -/
def timedOut (e : ErrFlags) : ErrFlags := { e with protoTimeout := true }

/-- Every sticky flag set in `s` is set in `t` (10_state R42). -/
def KeepsFlags (s t : State) : Prop :=
  (s.err.bufFull = true → t.err.bufFull = true) ∧ (s.err.bufEmpty = true → t.err.bufEmpty = true) ∧
  (s.err.protoTimeout = true → t.err.protoTimeout = true) ∧ (s.err.badCmd = true → t.err.badCmd = true) ∧
  (s.err.badOperand = true → t.err.badOperand = true) ∧
  (s.fault.sleepHoldMismatch = true → t.fault.sleepHoldMismatch = true) ∧
  (s.fault.holdOverflow = true → t.fault.holdOverflow = true)

/-- The actions of a complete `writeRegister(a, v)` (42 R191). -/
def writeTrace (c : Config) (a v : Byte) : List Action :=
  [.bus .start, .bus (.tx (addrW c)), .bus (.tx (cmdByte c a)), .bus (.tx v), .bus .stop]

/-- The answers to `adc_done` of one conversion after another: before each `true` so many `false` (43 R220 line 5). -/
def doneAnswers (waits : List Nat) : List Bool := waits.flatMap fun n => List.replicate n false ++ [true]

/-- The answers from which `PERIOD` steps 2 to 4 run to their end: each conversion is reported done after so many questions,
the codes are in range, and the comparator answers `c` (10_state R59). -/
def SamplingAnswers (s : State) (waits codes : List Nat) (c : Bool) : Prop :=
  waits.length = s.cfg.adcSamples ∧ codes.length = s.cfg.adcSamples ∧ (∀ k ∈ codes, k < 2 ^ s.cfg.adcW) ∧
  (∃ r, s.env.adcDone = doneAnswers waits ++ r) ∧ (∃ r, s.env.adcResult = codes ++ r) ∧ (∃ r, s.env.acmpOut = c :: r)

/-- Answers from which `PERIOD` does not get past a conversion: those before it are done with the codes given, and of it the
converter only ever says `false` (70 R325). -/
def ConverterSilent (s : State) (waits codes : List Nat) : Prop :=
  waits.length = codes.length ∧ codes.length < s.cfg.adcSamples ∧ (∀ k ∈ codes, k < 2 ^ s.cfg.adcW) ∧
  (∃ j, s.env.adcDone = doneAnswers waits ++ List.replicate j false) ∧ (∃ r, s.env.adcResult = codes ++ r)

/-- The state `p` that entered step 2 has room for the hold of step 2 (40 R130) and a counter for every mode (10_state R31). -/
def RoomForSampling (p : State) : Prop := p.hold.length = p.cfg.nmodes ∧ p.holdOf p.cfg.mAdc ≠ 2 ^ p.cfg.holdW - 1

/-- Room for the holds of steps 2 and 5, and a ring capacity that takes a burst (00_scope R10: a burst needs RB_CAP ≥ 5). -/
def RoomForSteps (p : State) : Prop :=
  RoomForSampling p ∧ p.holdOf p.cfg.mTx ≠ 2 ^ p.cfg.holdW - 1 ∧ 5 ≤ p.cfg.rbCap

/-- The five bytes of a burst (43 R231). -/
def fiveBytes (temp : F32) (led : Bool) : List Byte :=
  [temp.extractLsb' 0 8, temp.extractLsb' 8 8, temp.extractLsb' 16 8, temp.extractLsb' 24 8,
    if led then 0x01#8 else 0x00#8]

/-- What steps 2 to 4 make of the state `p` that enters step 2 (43 R220 to R229), `temp` being the temperature. The hold of
step 2 has been released again. -/
def beforeHandOff (p : State) (waits codes : List Nat) (c : Bool) (temp : F32) : State :=
  { p with
    temp := temp
    lastCmp := c
    led := if c = p.lastCmp then p.led else !p.led
    thr := if c = p.lastCmp then p.thr else p.thr.toggle
    out := { p.out with
      excite := false, acmpEn := false, status := if c = p.lastCmp then p.out.status else !p.led }
    env := { p.env with
      adcDone := p.env.adcDone.drop (doneAnswers waits).length
      adcResult := p.env.adcResult.drop codes.length
      acmpOut := p.env.acmpOut.tail }
    trace := p.trace ++ List.replicate codes.length .adcStart ++ [.acmpDis, .gpio .excite false] ++
      (if c = p.lastCmp then []
       else [.acmpRef (if p.thr = .low then p.cfg.refHigh else p.cfg.refLow), .gpio .status (!p.led)]) }

/-- What `PERIOD` steps 2 to 5 make of the state `p` that enters step 2, for the answers given (43 R220 to R233): step 5
leaves the burst in the ring but for its first byte, which is sent, and takes the transmitter hold. -/
def StepsTwoToFive (p t : State) (waits codes : List Nat) (c : Bool) : Prop :=
  ∃ temp, convert p.cfg (codes.sum / p.cfg.adcSamples) = some temp ∧
    let u := beforeHandOff p waits codes c temp
    t = { u with
      ctx := .main
      hold := u.hold.set u.cfg.mTx (u.holdOf u.cfg.mTx + 1)
      rbCap := BitVec.ofNat 8 u.cfg.rbCap
      rbHead := BitVec.ofNat 8 (5 % u.cfg.rbCap)
      rbTail := 1#8
      rbCount := 4#8
      rbMem := t.rbMem
      trace := u.trace ++ [.txSend (temp.extractLsb' 0 8)] } ∧
    t.queue = ((fiveBytes temp u.led).drop 1).map some

/-- The same when the transmitter hold overflows: the burst lies in the ring, nothing is sent, `FAULTED` (43 R210, R233,
60 R276). -/
def StopsAtTheTransmitter (p t : State) (waits codes : List Nat) (c : Bool) : Prop :=
  ∃ temp, convert p.cfg (codes.sum / p.cfg.adcSamples) = some temp ∧
    let u := beforeHandOff p waits codes c temp
    t = { u with
      ctx := .faulted
      fault := { u.fault with holdOverflow := true }
      rbCap := BitVec.ofNat 8 u.cfg.rbCap
      rbHead := BitVec.ofNat 8 (5 % u.cfg.rbCap)
      rbTail := 0#8
      rbCount := 5#8
      rbMem := t.rbMem } ∧
    t.queue = (fiveBytes temp u.led).map some

/-- The same on a ring too small for a burst: the bytes that fit stay, the flag is set, no hold is taken and nothing is sent
(43 R232). -/
def SkipsTheBurst (p t : State) (waits codes : List Nat) (c : Bool) : Prop :=
  ∃ temp, convert p.cfg (codes.sum / p.cfg.adcSamples) = some temp ∧
    let u := beforeHandOff p waits codes c temp
    t = { u with
      ctx := .main
      err := { u.err with bufFull := true }
      rbCap := BitVec.ofNat 8 u.cfg.rbCap
      rbHead := 0#8
      rbTail := 0#8
      rbCount := BitVec.ofNat 8 u.cfg.rbCap
      rbMem := t.rbMem } ∧
    t.queue = ((fiveBytes temp u.led).take u.cfg.rbCap).map some

/-- The state in which `PERIOD` stays at a conversion that is never done, `codes` being those before it: in `HANDLER`, with
the hold of step 2 taken (43 R220 line 5, 70 R325). -/
def atTheConverter (p : State) (codes : List Nat) : State :=
  { p with
    hold := p.hold.set p.cfg.mAdc (p.holdOf p.cfg.mAdc + 1)
    env := { p.env with adcDone := [], adcResult := p.env.adcResult.drop codes.length }
    trace := p.trace ++ List.replicate (codes.length + 1) .adcStart
    task := some (.adcDone (p.cfg.adcSamples - 1 - codes.length) codes.sum) }

/-- From `s`, whose handler enters step 2 in the state `p`, `PERIOD` runs to its end when it is given its answers, and stays in
`HANDLER` at the converter's question while that is not answered `true`. -/
def FinishesOrWaits (s p : State) : Prop :=
  (∀ waits codes c, RoomForSteps p → SamplingAnswers p waits codes c →
    ∃ t, exec .period s = .next t ∧ StepsTwoToFive p t waits codes c) ∧
  (∀ waits codes, RoomForSampling p → ConverterSilent p waits codes →
    exec .period s = .next (atTheConverter p codes) ∧ (atTheConverter p codes).ctx = .handler)

/-- The state in which a `PERIOD` handler of phase 0 enters step 2, when `writes` is what its configuration writes put on
the bus, `acks` the answers left, and `e` the error flags (43 R214, R217). -/
def afterPowerUp (s : State) (writes : List Action) (acks : List Bool) (e : ErrFlags) : State :=
  { s with
    ctr := .powerUp
    ctx := .handler
    hold := s.hold.set s.cfg.mBus (s.holdOf s.cfg.mBus + 1)
    out := { s.out with pwrEn := true, edgeIrqEn := true }
    pend := { s.pend with period := false, edge := false }
    err := e
    env := { s.env with busAck := acks }
    trace := s.trace ++ [.gpio .pwrEn true, .delay s.cfg.settle] ++ writes ++ [.edgeIrq true] }

/-- The state in which a `PERIOD` handler of phase 1 enters step 2 (43 R215). -/
def afterDwell (s : State) : State :=
  { s with ctr := .dwell, ctx := .handler, pend := { s.pend with period := false } }

/-- The state in which a `PERIOD` handler of phase 2 enters step 2 (43 R216, R217). -/
def afterTearDown (s : State) (writes : List Action) (acks : List Bool) (e : ErrFlags) : State :=
  { s with
    ctr := .tearDown
    ctx := .handler
    hold := s.hold.set s.cfg.mBus (s.holdOf s.cfg.mBus - 1)
    out := { s.out with pwrEn := false, edgeIrqEn := false }
    pend := { s.pend with period := false, edge := false }
    err := e
    env := { s.env with busAck := acks }
    trace := s.trace ++ [.edgeIrq false] ++ writes ++ [.gpio .pwrEn false] }

/-- How a sequence of register writes goes with the acknowledgments ready in `s`: all are acknowledged, or the write `w` times
out at its wait `k` and the rest is skipped (43 R214, R217, 42 R175, R191). `sent` is what is put on the bus, `acks` the
acknowledgments left, `e` the error flags. -/
def WritesAnswered (s : State) (seq : List (Byte × Byte)) (sent : List Action) (acks : List Bool) (e : ErrFlags) : Prop :=
  (s.env.busAck = List.replicate (3 * seq.length) true ++ acks ∧
    sent = (seq.flatMap fun w => writeTrace s.cfg w.1 w.2) ∧ e = s.err) ∨
  (∃ before w after k, seq = before ++ w :: after ∧ k < 3 ∧
    s.env.busAck = List.replicate (3 * before.length + k) true ++ false :: acks ∧
    sent = (before.flatMap fun w => writeTrace s.cfg w.1 w.2) ++ (writeTrace s.cfg w.1 w.2).take (k + 2) ++
      abandonTrace s.cfg ∧
    e = timedOut s.err)

/-- The handler of `PERIOD`, run from `s`, enters step 2 in the state `p`, whichever phase it is in and however the device
acknowledges its writes (43 R213 to R217). -/
def EntersStepTwo (s p : State) : Prop :=
  match s.ctr with
  | .powerUp => p = afterDwell s
  | .tearDown => s.holdOf s.cfg.mBus ≠ 2 ^ s.cfg.holdW - 1 ∧
      ∃ sent acks e, WritesAnswered s s.cfg.cfgSeq sent acks e ∧ p = afterPowerUp s sent acks e
  | .dwell => s.holdOf s.cfg.mBus ≠ 0 ∧
      ∃ sent acks e, WritesAnswered s [s.cfg.offWrite] sent acks e ∧ p = afterTearDown s sent acks e

/-- The value of a finite encoding in units of `2 ^ -149`, the least magnitude there is (43 R226). -/
def f32Units (x : F32) : Int := f32Int x * 2 ^ (f32Pow x + 149).toNat

/-- `r` is the binary32 nearest to `x / d` units, of two equally near the one with an even significand; from halfway between
the greatest finite magnitude and the next power of two on it is the infinity of the right sign (43 R226). -/
def RoundedTo (x : Int) (d : Nat) (r : F32) : Prop :=
  (f32Finite r = true ↔ x.natAbs < d * (2 ^ 277 - 2 ^ 252)) ∧
  (f32Finite r = false → r = if x < 0 then 0xFF800000#32 else 0x7F800000#32) ∧
  (f32Finite r = true → ∀ y, f32Finite y = true →
    (f32Units r * d - x).natAbs ≤ (f32Units y * d - x).natAbs ∧
    ((f32Units r * d - x).natAbs = (f32Units y * d - x).natAbs → f32Units y ≠ f32Units r → r.getLsbD 0 = false))

end Sys2Proof.Machine

/-! ### Encoding -/

/-- Decoding an encoded operation gives it back, with every operand at every value (30 R101, R102, R103, R108). -/
def Obligations.DecodeInvertsEncode : Prop :=
  ∀ i : Instr, decode (encode i) = .ok i

/-- Every word that decodes is the encoding of what it decodes to: each word has one meaning. -/
def Obligations.EncodeInvertsDecode : Prop :=
  ∀ (p : PortWord) (i : Instr), decode p = .ok i → encode i = p

/-- R106: which words are illegal, and what an illegal word does. The all-zero and the all-ones word are illegal. `u` is the
state after the environment's acts of this step's slot. -/
def Obligations.IllegalWordsAreRefused : Prop :=
  (∀ w : CmdWord,
    (∃ r, decodeCmd w = .error r) ↔
      (¬ (fieldOp w ∈ [0x10#8, 0x11#8, 0x12#8, 0x13#8, 0x20#8, 0x21#8, 0x22#8, 0x30#8, 0x31#8, 0x40#8]) ∨
        fieldZ w ≠ 0x00#8 ∨
        (fieldOp w ≠ 0x31#8 ∧ fieldB w ≠ 0x00#8) ∨
        (fieldOp w ∈ [0x12#8, 0x13#8, 0x22#8] ∧ fieldA w ≠ 0x00#8))) ∧
  (∃ r, decodeCmd 0x00000000#32 = .error r) ∧ (∃ r, decodeCmd 0xFFFFFFFF#32 = .error r) ∧
  (∀ (s u : State) (w : CmdWord) (rest : List CmdWord), s.environment = u → Ready u → u.pend = Pend.zero →
    u.cmdIn = w :: rest → (∃ r, decodeCmd w = .error r) →
    step s = .next { u with
      cmdIn := rest, err := { u.err with badCmd := true }, rsp := u.rsp ++ [0x0700#16] })

/-- Words of the spec's encoding tables (95 section 4.1) decode to the operations they stand for. -/
def Obligations.SpecWordsDecode : Prop :=
  decode (.cmd 0x10020000#32) = .ok (.acq 2#8) ∧ decode (.cmd 0x12000000#32) = .ok .sel ∧
  decode (.cmd 0x21410000#32) = .ok (.enq 0x41#8) ∧ decode (.cmd 0x3105A700#32) = .ok (.wrreg 0x05#8 0xA7#8) ∧
  decode (.cmd 0x40300000#32) = .ok (.rdsr 0x30#8) ∧ decode (.evt 1#2) = .ok .period

/-- R107: the operand ranges, and what a legal word with an operand out of range does. -/
def Obligations.OperandOutOfRangeIsRefused : Prop :=
  (∀ (i : Instr) (s : State), Ready s → i.wellFormed s.cfg = false →
    exec i s = .next { s with err := { s.err with badOperand := true }, rsp := s.rsp ++ [0x0600#16] }) ∧
  (∀ (c : Config) (a v : Byte),
    ((Instr.acq a).wellFormed c = true ↔ a.toNat < c.nmodes) ∧ ((Instr.rel a).wellFormed c = true ↔ a.toNat < c.nmodes) ∧
    ((Instr.alloc a).wellFormed c = true ↔ a.toNat ≤ c.capMax) ∧
    ((Instr.rdsr a).wellFormed c = true ↔ (a.toNat < c.nmodes ∨
      a ∈ [0x10#8, 0x11#8, 0x12#8, 0x13#8, 0x20#8, 0x21#8, 0x22#8, 0x23#8, 0x24#8, 0x25#8,
        0x30#8, 0x31#8, 0x32#8, 0x33#8, 0x34#8])) ∧
    (Instr.enq a).wellFormed c = true ∧ (Instr.rdreg a).wellFormed c = true ∧ (Instr.wrreg a v).wellFormed c = true)

/-! ### The step -/

/-- When the block is in `MAIN`, nothing runs and nothing is pending, the step serves the command port: with a legal word there
it is that operation, with the word taken off the port; with no word it leaves the state as the environment's acts left it
(60 R285 b). `s.environment` is the state after the environment's acts of this step's slot. -/
def Obligations.StepRunsTheDecodedCommand : Prop :=
  ∀ s : State, s.environment.ctx = .main → s.environment.task = none → s.environment.pend = Pend.zero →
    (∀ (w : CmdWord) (rest : List CmdWord) (i : Instr), s.environment.cmdIn = w :: rest → decodeCmd w = .ok i →
      step s = exec i { s.environment with cmdIn := rest }) ∧
    (s.environment.cmdIn = [] → step s = .next s.environment)

/-- When something is pending in `MAIN`, the step takes a pending event, whatever word waits at the command port (60 R285 a,
R287). Which one, where several are pending, is open in R287, and the rest is the model's choice (notes/assumptions/7.md):
the choice is a free value applied to a counter of choices, the event it favours is the one taken, and with one event pending
no choice is counted. -/
def Obligations.StepTakesAPendingEvent : Prop :=
  (∀ s : State, s.environment.ctx = .main → s.environment.task = none → s.environment.pend.any = true →
    ∃ (e : EventCode) (n : Nat), s.environment.pend.get e = true ∧
      step s = exec e.instr { s.environment with choiceIx := n } ∧
      (∀ e', s.environment.pend = Pend.zero.put true e' → e = e' ∧ n = s.environment.choiceIx)) ∧
  (∀ (e : EventCode) (s : State), s.environment.ctx = .main → s.environment.task = none →
    s.environment.pend.get e = true → s.environment.cfg.evtOrder = .anyOrder →
    Config.evtChoice s.environment.choiceIx = e →
    ∃ n, step s = exec e.instr { s.environment with choiceIx := n })

/-- Taking an event (60 R289) clears its pending bit, sets `ctx` to `HANDLER` and starts its handler; nothing is saved. -/
def Obligations.TakingAnEventEntersItsHandler : Prop :=
  (∀ (e : EventCode) (s : State), s.takeEvent e = { s with pend := s.pend.put false e, ctx := .handler }) ∧
  (∀ s : State, Ready s →
    exec .subint s = subintHandler (s.takeEvent .subint) ∧ exec .period s = periodHandler (s.takeEvent .period) ∧
    exec .txrdy s = txrdyHandler (s.takeEvent .txrdy) ∧
    exec .edge s = .next ((s.takeEvent .edge).emit .edgeFwd).handlerReturn)

/-- R286: an arriving event sets its pending bit in any context, subject to the enable of `EDGE`; a second arrival while the bit
is set is absorbed. R292 says of a `PERIOD` that arrives while one is running that the two coalesce; there the model follows
R286 (notes/assumptions/25.md). -/
def Obligations.ArrivalsLatch : Prop :=
  (∀ (e : EventCode) (s : State), e ≠ .edge ∨ s.out.edgeIrqEn = true →
    s.envAct (.event e) = { s with pend := s.pend.put true e }) ∧
  (∀ s : State, s.out.edgeIrqEn = false → s.envAct (.event .edge) = s) ∧
  (∀ (e : EventCode) (s : State), (s.envAct (.event e)).envAct (.event e) = s.envAct (.event e)) ∧
  (∀ (e f : EventCode) (s : State), f ≠ e → (s.envAct (.event e)).pend.get f = s.pend.get f)

/-- Where an event cannot be taken it is deferred: latched, not taken; and a command is not accepted in `HANDLER`, in
`PARKED` or inside another command (60 R285 c, d, R288, R289; that exec of an operation the port does not accept changes
nothing, and that exec of such an event, a second `PERIOD` among them, latches it, is the model's: notes/assumptions/16.md,
17.md, 25.md). There a step goes on with
the operation that runs: it takes no event, so that no pending bit changes but that of `EDGE`, which `PERIOD` drops
(43 R214), and the words at the command port stay. -/
def Obligations.NothingRunsOutsideMain : Prop :=
  (∀ (s : State) (t : Task), s.environment.ctx = .handler ∨ s.environment.ctx = .main → s.environment.task = some t →
    step s = resume t s.environment ∧
    (∀ u, step s = .next u → u.cmdIn = s.environment.cmdIn ∧
      ∀ e, e ≠ .edge → u.pend.get e = s.environment.pend.get e)) ∧
  ∀ (i : Instr) (s : State), configOk s.cfg = true →
    (s.ctx = .handler ∨ (∃ m, s.ctx = .parked m) ∨ (s.ctx = .main ∧ s.task.isSome = true)) →
    exec i s = .next (match i with
      | .subint => s.latch .subint
      | .period => s.latch .period
      | .txrdy => s.latch .txrdy
      | .edge => s.latch .edge
      | .acq _ => s | .rel _ => s | .sel => s | .enter => s | .alloc _ => s | .enq _ => s | .deq => s
      | .rdreg _ => s | .wrreg _ _ => s | .rdsr _ => s)

/-- In `PARKED(m)` the step wakes when something is pending, with `WAKE`, context `MAIN` and `ENTER`'s response, and else
stays parked (40 R137, 60 R285 d). -/
def Obligations.ParkEndsOnAPendingEvent : Prop :=
  ∀ (s : State) (m : Nat), s.environment.ctx = .parked m →
    step s = .next (if s.environment.pend.any = true
      then { s.environment with
        ctx := .main, trace := s.environment.trace ++ [.wake], rsp := s.environment.rsp ++ [0x00#8 ++ BitVec.ofNat 8 m] }
      else s.environment)

/-! ### FAULTED -/

/-- R279: in `FAULTED` every command except a legal, in-range `RDSR` is answered `(Faulted, 0)` and does nothing else; so is
an illegal word. `u` is the state after the environment's acts of this step's slot. -/
def Obligations.FaultedRefusesCommands : Prop :=
  ∀ (s u : State) (w : CmdWord) (rest : List CmdWord), s.environment = u → configOk u.cfg = true → u.ctx = .faulted →
    u.cmdIn = w :: rest → (∀ n, decodeCmd w = .ok (.rdsr n) → (Instr.rdsr n).wellFormed u.cfg = false) →
    step s = .next { u with cmdIn := rest, rsp := u.rsp ++ [0x0800#16] }

/-- Only reset leaves `FAULTED`: without one in the slot, a step changes nothing but what is pending and the ports' data,
takes no event and emits nothing (60 R282). -/
def Obligations.FaultedIsLeftOnlyByReset : Prop :=
  ∀ s t : State, s.ctx = .faulted → (∀ acts c, s.script.head? = some acts → EnvAct.reset c ∉ acts) → step s = .next t →
    t = { s with
      pend := t.pend, env := t.env, cmdIn := t.cmdIn, script := t.script, rsp := t.rsp } ∧
    (∀ e, s.pend.get e = true → t.pend.get e = true)

/-- Nothing but reset clears a sticky flag: no operation, no going on of an operation that waited, and no step whose slot holds
no reset (10_state R42, 70 R310; reset is no operation). -/
def Obligations.FlagsAreSticky : Prop :=
  (∀ (i : Instr) (s t : State), exec i s = .next t → KeepsFlags s t) ∧
  (∀ (k : Task) (s t : State), resume k s = .next t → KeepsFlags s t) ∧
  (∀ s t : State, (∀ acts c, s.script.head? = some acts → EnvAct.reset c ∉ acts) → step s = .next t → KeepsFlags s t)

/-! ### The arbiter -/

/-- `ACQ m` adds one to `hold[m]` and answers OK; no other cell changes (40 R132). -/
def Obligations.AcqAddsOneHold : Prop :=
  ∀ (m : Byte) (s : State), Ready s → m.toNat < s.cfg.nmodes → s.holdOf m.toNat ≠ 2 ^ s.cfg.holdW - 1 →
    exec (.acq m) s =
      .next { s with hold := s.hold.set m.toNat (s.holdOf m.toNat + 1), rsp := s.rsp ++ [0x0000#16] }

/-- `REL m` takes one from `hold[m]` and answers OK; no other cell changes (40 R133). -/
def Obligations.RelTakesOneHold : Prop :=
  ∀ (m : Byte) (s : State), Ready s → m.toNat < s.cfg.nmodes → s.holdOf m.toNat ≠ 0 →
    exec (.rel m) s =
      .next { s with hold := s.hold.set m.toNat (s.holdOf m.toNat - 1), rsp := s.rsp ++ [0x0000#16] }

/-- An acquire at the top of the counter and a release at zero are fatal: the counter keeps its value, the flag is set, the
context is `FAULTED`, the status is answered (40 R132, R133, 60 R275, R276). -/
def Obligations.HoldErrorsAreFatal : Prop :=
  ∀ (m : Byte) (s : State), Ready s → m.toNat < s.cfg.nmodes →
    (s.holdOf m.toNat = 2 ^ s.cfg.holdW - 1 → exec (.acq m) s = .next { s with
      fault := { s.fault with holdOverflow := true }, ctx := .faulted, rsp := s.rsp ++ [0x0500#16] }) ∧
    (s.holdOf m.toNat = 0 → exec (.rel m) s = .next { s with
      fault := { s.fault with sleepHoldMismatch := true }, ctx := .faulted, rsp := s.rsp ++ [0x0400#16] })

/-- R131: the selection function, from the set of held modes; a mode is blocked iff some mode at or above it is held. -/
def Obligations.SelectionFollowsTheShallowestHold : Prop :=
  ∀ (n : Nat) (h : List Nat), h.length = n → 0 < n →
    ((∀ k, k < n → h.getD k 0 = 0) → sel n h = some (n - 1)) ∧
    (∀ k, k < n → 0 < h.getD k 0 → (∀ j, j < k → h.getD j 0 = 0) →
      sel n h = (if k = 0 then none else some (k - 1))) ∧
    (∀ m r, sel n h = some r → m < n → (m ≤ r ↔ ¬ ∃ k, k ≤ m ∧ 0 < h.getD k 0))

/-- The laws of 40 R135: acquire then release of one mode leaves the table and the selection as they were; the selection
is strictly shallower than every held mode; it depends only on which counters are positive. -/
def Obligations.ArbiterLaws : Prop :=
  (∀ (m : Nat) (s s1 : State), m < s.hold.length → acquire m s = .ok s1 →
    ∃ s2, release m s1 = .ok s2 ∧ s2.hold = s.hold ∧ s2.selected = s.selected) ∧
  (∀ (n : Nat) (h : List Nat) (r k : Nat), sel n h = some r → k < n → 0 < h.getD k 0 → r < k) ∧
  (∀ (n : Nat) (h h' : List Nat), h.length = h'.length → (∀ k, 0 < h.getD k 0 ↔ 0 < h'.getD k 0) → sel n h = sel n h')

/-- `SEL` answers the selection, 0xFF for `NONE`, and changes no cell (40 R134). -/
def Obligations.SelAnswersTheSelection : Prop :=
  ∀ s : State, Ready s →
    exec .sel s = .next { s with rsp := s.rsp ++ [0x00#8 ++ (match sel s.cfg.nmodes s.hold with
      | some m => BitVec.ofNat 8 m
      | none => 0xFF#8)] }

/-- `ENTER` parks the processor in the selected mode with the response withheld; with `NONE` it does not park and answers
0xFF; with an event already pending the park ends at once (40 R136). -/
def Obligations.EnterParksInTheSelectedMode : Prop :=
  ∀ s : State, Ready s →
    (∀ m, sel s.cfg.nmodes s.hold = some m → s.pend.any = false →
      exec .enter s = .next { s with ctx := .parked m, trace := s.trace ++ [.park m] }) ∧
    (∀ m, sel s.cfg.nmodes s.hold = some m → s.pend.any = true →
      exec .enter s = .next { s with
        trace := s.trace ++ [.park m] ++ [.wake], rsp := s.rsp ++ [0x00#8 ++ BitVec.ofNat 8 m] }) ∧
    (sel s.cfg.nmodes s.hold = none →
      exec .enter s = .next { s with trace := s.trace ++ [.parkNone], rsp := s.rsp ++ [0x00FF#16] })

/-! ### The ring -/

/-- `ALLOC c` empties the ring with the new capacity; unread bytes are gone; no other cell changes (41 R150). R150 (b) leaves
the bytes of the storage undefined; that no byte of it holds a value afterwards (`rbMem := []`) is the model's choice
(notes/assumptions/8.md). -/
def Obligations.AllocEmptiesTheRing : Prop :=
  ∀ (c : Byte) (s : State), Ready s → c.toNat ≤ s.cfg.capMax →
    exec (.alloc c) s = .next { s with
      rbCap := c, rbHead := 0#8, rbTail := 0#8, rbCount := 0#8, rbMem := [], rsp := s.rsp ++ [0x0000#16] }

/-- `ENQ b` stores at the head, and at no other address, and advances it; on a full ring it changes nothing but the sticky
flag (41 R151, R153). -/
def Obligations.EnqAppendsOrReportsFull : Prop :=
  ∀ (b : Byte) (s : State), Ready s → RingOk s →
    (s.rbCount.toNat < s.rbCap.toNat →
      exec (.enq b) s = .next { s with
        rbMem := Memory.write s.rbMem s.rbHead.toNat b
        rbHead := BitVec.ofNat 8 ((s.rbHead.toNat + 1) % s.rbCap.toNat)
        rbCount := BitVec.ofNat 8 (s.rbCount.toNat + 1)
        rsp := s.rsp ++ [0x0000#16] } ∧
      Memory.read (Memory.write s.rbMem s.rbHead.toNat b) s.rbHead.toNat = some b ∧
      (∀ a, a ≠ s.rbHead.toNat →
        Memory.read (Memory.write s.rbMem s.rbHead.toNat b) a = Memory.read s.rbMem a)) ∧
    (s.rbCount = s.rbCap → exec (.enq b) s = .next { s with
      err := { s.err with bufFull := true }, rsp := s.rsp ++ [0x0100#16] })

/-- `DEQ` answers the byte at the tail and advances it; no other byte of the storage changes (the one read becomes
unspecified); on an empty ring it changes nothing but the sticky flag (41 R152, R153, 10_state R36). -/
def Obligations.DeqTakesTheOldestOrReportsEmpty : Prop :=
  ∀ s : State, Ready s → RingOk s →
    (0 < s.rbCount.toNat → ∃ v m, Memory.read s.rbMem s.rbTail.toNat = some v ∧
      (∀ a, a ≠ s.rbTail.toNat → Memory.read m a = Memory.read s.rbMem a) ∧
      exec .deq s = .next { s with
        rbMem := m
        rbTail := BitVec.ofNat 8 ((s.rbTail.toNat + 1) % s.rbCap.toNat)
        rbCount := BitVec.ofNat 8 (s.rbCount.toNat - 1)
        rsp := s.rsp ++ [0x00#8 ++ v] }) ∧
    (s.rbCount = 0#8 → exec .deq s = .next { s with
      err := { s.err with bufEmpty := true }, rsp := s.rsp ++ [0x0200#16] })

/-- The ring is a queue: an enqueue that succeeds appends its byte to the content, a dequeue that succeeds returns and
removes the oldest, and both keep the ring invariant (41 R154 FIFO, 10_state R35). -/
def Obligations.RingIsAQueue : Prop :=
  ∀ s : State, RingOk s →
    (∀ b s', rbEnqueue b s = .stored s' → RingOk s' ∧ s'.queue = s.queue ++ [some b]) ∧
    (∀ v s', rbDequeue s = .taken v s' → RingOk s' ∧ s.queue = some v :: s'.queue)

/-- Enqueueing N ≤ capacity bytes into an empty ring, wherever its cursors stand, and dequeueing N gives the bytes back in
order and leaves the ring empty (41 R154 round trip). -/
def Obligations.RingRoundTrip : Prop :=
  ∀ (s : State) (bytes : List Byte), RingOk s → s.rbCount = 0#8 → bytes.length ≤ s.rbCap.toNat →
    ∃ s1 s2, enqueueBytes bytes s = some s1 ∧ dequeueBytes bytes.length s1 = some (bytes, s2) ∧
      s2.rbCount = 0#8 ∧ s2.queue = []

/-! ### The serial engine -/

/-- R116: the frames of the two exchanges, as ordered lists of symbols and waits. -/
def Obligations.FramesAreTheSpecs : Prop :=
  ∀ (c : Config) (a v : Byte),
    writeFrame c a v = [.send .start, .send (.tx (addrW c)), .ack, .send (.tx (cmdByte c a)), .ack, .send (.tx v), .ack,
      .send .stop] ∧
    readFrame c a = [.send .start, .send (.tx (addrW c)), .ack, .send (.tx (cmdByte c a)), .ack, .send .repStart,
      .send (.tx (addrR c)), .ack, .rx, .send .mnack, .send .stop]

/-- A read whose waits are all answered sends its frame and answers the byte received; no cell changes (42 R190). The command
byte is marked (30 R115). That an address byte is the device address above a direction bit is from general knowledge, as
30 R114 marks it (PRESUMED, notes/assumptions/14.md). -/
def Obligations.RdregReturnsTheSlavesByte : Prop :=
  ∀ (a v : Byte) (s : State) (acks : List Bool) (bytes : List (Option Byte)), Ready s →
    s.env.busAck = true :: true :: true :: acks → s.env.busRx = some v :: bytes →
    exec (.rdreg a) s = .next { s with
      env := { s.env with busAck := acks, busRx := bytes }
      trace := s.trace ++ [.bus .start, .bus (.tx (BitVec.ofNat 8 (2 * s.cfg.devAddr.toNat))),
        .bus (.tx (a ||| s.cfg.cmdMark)), .bus .repStart, .bus (.tx (BitVec.ofNat 8 (2 * s.cfg.devAddr.toNat + 1))),
        .bus .mnack, .bus .stop]
      rsp := s.rsp ++ [0x00#8 ++ v] }

/-- A write whose waits are all answered sends its frame and answers OK; no cell changes (42 R191). -/
def Obligations.WrregSendsTheByte : Prop :=
  ∀ (a v : Byte) (s : State) (acks : List Bool), Ready s → s.env.busAck = true :: true :: true :: acks →
    exec (.wrreg a v) s = .next { s with
      env := { s.env with busAck := acks }
      trace := s.trace ++ writeTrace s.cfg a v
      rsp := s.rsp ++ [0x0000#16] }

/-- A wait that times out abandons the exchange there: nothing more of the frame, one stop condition if `ABORT_STOP`, the
sticky flag, and status `ProtocolTimeout` without a byte (42 R175, R190, R191). -/
def Obligations.TimeoutAbandonsTheExchange : Prop :=
  ∀ (a v : Byte) (s : State) (acks : List Bool), Ready s →
    (∀ k, k < 3 → s.env.busAck = List.replicate k true ++ false :: acks →
      exec (.wrreg a v) s = .next { s with
        env := { s.env with busAck := acks }
        err := timedOut s.err
        trace := s.trace ++ (writeTrace s.cfg a v).take (k + 2) ++ abandonTrace s.cfg
        rsp := s.rsp ++ [0x0300#16] } ∧
      exec (.rdreg a) s = .next { s with
        env := { s.env with busAck := acks }
        err := timedOut s.err
        trace := s.trace ++ (symbolsOf (readFrame s.cfg a)).take (if k = 2 then 5 else k + 2) ++ abandonTrace s.cfg
        rsp := s.rsp ++ [0x0300#16] }) ∧
    (∀ bytes, s.env.busAck = true :: true :: true :: acks → s.env.busRx = none :: bytes →
      exec (.rdreg a) s = .next { s with
        env := { s.env with busAck := acks, busRx := bytes }
        err := timedOut s.err
        trace := s.trace ++ (symbolsOf (readFrame s.cfg a)).take 5 ++ abandonTrace s.cfg
        rsp := s.rsp ++ [0x0300#16] })

/-- Whatever the answers, a run of any frame changes nothing but the answers, the trace and, on a timeout, the sticky flag;
what it sends is a beginning of the frame's symbols, all of them when it completes, followed by a stop condition when it was
abandoned and `ABORT_STOP` holds (42 R170, R192 c). -/
def Obligations.ExchangesSendABeginningOfTheFrame : Prop :=
  ∀ (f : List BusStep) (v : Byte) (s : State),
    (∀ w t, busRun f v s = .done w t →
      t = { s with env := t.env, trace := s.trace ++ symbolsOf f }) ∧
    (∀ t, busRun f v s = .timeout t → ∃ sent, sent <+: symbolsOf f ∧
      t = { s with env := t.env, err := timedOut s.err, trace := s.trace ++ sent ++ abandonTrace s.cfg }) ∧
    (∀ left t, busRun f v s = .waiting left t →
      ∃ sent, symbolsOf f = sent ++ symbolsOf left ∧ t = { s with env := t.env, trace := s.trace ++ sent })

/-- The counts of 42 R193: a read emits 7 symbols and asks 4 questions, a write 5 and 3. A run of any frame asks `bus_ack` once
per acknowledgment wait and `bus_rx` once per data wait, in the order of the waits, and nothing else: all of the frame's waits
when it completes; those up to and with the wait that timed out, the k-th, when it is abandoned there; those before the wait
without an answer when it stays there. The trace shows the symbols before that wait. -/
def Obligations.ExchangesAskOncePerWait : Prop :=
  (∀ (c : Config) (a v : Byte),
    (symbolsOf (readFrame c a)).length = 7 ∧ waitsOf (readFrame c a) = 4 ∧
    (symbolsOf (writeFrame c a v)).length = 5 ∧ waitsOf (writeFrame c a v) = 3) ∧
  (∀ (f : List BusStep) (v w : Byte) (s t : State), busRun f v s = .done w t →
    ∃ acks bytes, BusAsked s t acks bytes ∧ acks.length = f.count .ack ∧ bytes.length = f.count .rx ∧
      (∀ x ∈ acks, x = true) ∧ (∀ x ∈ bytes, x ≠ none) ∧ some w = (bytes.getLast?.getD (some v)) ∧
      t.trace = s.trace ++ symbolsOf f) ∧
  (∀ (f : List BusStep) (v : Byte) (s t : State), busRun f v s = .timeout t →
    ∃ pre wait post acks bytes, f = pre ++ wait :: post ∧ BusAsked s t acks bytes ∧
      acks.length = (pre ++ [wait]).count .ack ∧ bytes.length = (pre ++ [wait]).count .rx ∧
      ((wait = .ack ∧ (∃ good, acks = good ++ [false] ∧ ∀ x ∈ good, x = true) ∧ ∀ x ∈ bytes, x ≠ none) ∨
       (wait = .rx ∧ (∀ x ∈ acks, x = true) ∧ ∃ good, bytes = good ++ [none] ∧ ∀ x ∈ good, x ≠ none)) ∧
      t.trace = s.trace ++ symbolsOf pre ++ abandonTrace s.cfg) ∧
  (∀ (f left : List BusStep) (v : Byte) (s t : State), busRun f v s = .waiting left t →
    ∃ pre wait post acks bytes, f = pre ++ left ∧ left = wait :: post ∧ BusAsked s t acks bytes ∧
      acks.length = pre.count .ack ∧ bytes.length = pre.count .rx ∧
      (∀ x ∈ acks, x = true) ∧ (∀ x ∈ bytes, x ≠ none) ∧
      ((wait = .ack ∧ t.env.busAck = []) ∨ (wait = .rx ∧ t.env.busRx = [])) ∧
      t.trace = s.trace ++ symbolsOf pre)

/-! ### Status registers -/

/-- R46: the content of every status register, and its value right after reset; a number not listed has none. -/
def Obligations.StatusRegistersShowTheCells : Prop :=
  (∀ (s : State) (n : Byte), 2 ≤ s.cfg.nmodes → s.cfg.nmodes ≤ 16 →
    (n.toNat < s.cfg.nmodes → readSr s n = some (BitVec.ofNat 8 (s.holdOf n.toNat % 2 ^ s.cfg.holdW))) ∧
    readSr s 0x10#8 = some s.rbCount ∧ readSr s 0x11#8 = some s.rbHead ∧ readSr s 0x12#8 = some s.rbTail ∧
    readSr s 0x13#8 = some s.rbCap ∧
    readSr s 0x20#8 = some (match s.ctr with | .powerUp => 0#8 | .dwell => 1#8 | .tearDown => 2#8) ∧
    readSr s 0x21#8 = some ((BitVec.ofBool (s.thr == .high) ++ BitVec.ofBool s.led ++
      BitVec.ofBool s.lastCmp).zeroExtend 8) ∧
    readSr s 0x22#8 = some (s.temp.extractLsb' 0 8) ∧ readSr s 0x23#8 = some (s.temp.extractLsb' 8 8) ∧
    readSr s 0x24#8 = some (s.temp.extractLsb' 16 8) ∧ readSr s 0x25#8 = some (s.temp.extractLsb' 24 8) ∧
    readSr s 0x30#8 = some ((BitVec.ofBool s.err.badOperand ++ BitVec.ofBool s.err.badCmd ++
      BitVec.ofBool s.err.protoTimeout ++ BitVec.ofBool s.err.bufEmpty ++ BitVec.ofBool s.err.bufFull).zeroExtend 8) ∧
    readSr s 0x31#8 = some ((BitVec.ofBool s.fault.holdOverflow ++
      BitVec.ofBool s.fault.sleepHoldMismatch).zeroExtend 8) ∧
    readSr s 0x32#8 = some ((BitVec.ofBool s.out.acmpEn ++ BitVec.ofBool s.out.edgeIrqEn ++ BitVec.ofBool s.out.status ++
      BitVec.ofBool s.out.pwrEn ++ BitVec.ofBool s.out.excite).zeroExtend 8) ∧
    readSr s 0x33#8 = some ((BitVec.ofBool s.pend.edge ++ BitVec.ofBool s.pend.txrdy ++ BitVec.ofBool s.pend.period ++
      BitVec.ofBool s.pend.subint).zeroExtend 8) ∧
    readSr s 0x34#8 = some (match sel s.cfg.nmodes s.hold with | some m => BitVec.ofNat 8 m | none => 0xFF#8) ∧
    (srListed s.cfg n = false → readSr s n = none)) ∧
  (∀ (c : Config) (n : Byte), configOk c = true → srListed c n = true →
    readSr (State.resetOf c) n = some
      (if n = 0x13#8 then BitVec.ofNat 8 c.rbCap else if n = 0x20#8 then 0x02#8
       else if n = 0x34#8 then BitVec.ofNat 8 (c.nmodes - 1) else 0x00#8))

/-- `RDSR n` of a listed number answers the register and changes nothing, in `MAIN` and in `FAULTED` (44 R260, 20 R74). -/
def Obligations.RdsrReadsWithoutSideEffect : Prop :=
  ∀ (n v : Byte) (s : State), configOk s.cfg = true → s.task = none → s.ctx = .main ∨ s.ctx = .faulted →
    readSr s n = some v → exec (.rdsr n) s = .next { s with rsp := s.rsp ++ [0x00#8 ++ v] }

/-- A command is accepted in `MAIN` only when nothing is pending, so `RDSR 0x33` served there answers 0x00 (10_state R47). -/
def Obligations.PendReadsZeroInMain : Prop :=
  ∀ (s u : State) (rest : List CmdWord), s.environment = u → Ready u → u.pend = Pend.zero →
    u.cmdIn = 0x40330000#32 :: rest → step s = .next { u with cmdIn := rest, rsp := u.rsp ++ [0x0000#16] }

/-! ### The sequencer -/

/-- `SUBINT` enables the comparator, raises the excitation, and ends when the comparator reports warm-up; until then it stays
in `HANDLER` at that question (43 R211, 70 R325). -/
def Obligations.SubintArmsTheComparator : Prop :=
  ∀ (s : State) (k : Nat), Ready s →
    (∀ r, s.env.acmpWarm = List.replicate k false ++ true :: r →
      exec .subint s = .next { s with
        pend := { s.pend with subint := false }
        out := { s.out with excite := true, acmpEn := true }
        env := { s.env with acmpWarm := r }
        trace := s.trace ++ [.acmpEn, .gpio .excite true] }) ∧
    (s.env.acmpWarm = List.replicate k false →
      exec .subint s = .next { s with
        pend := { s.pend with subint := false }
        out := { s.out with excite := true, acmpEn := true }
        env := { s.env with acmpWarm := [] }
        trace := s.trace ++ [.acmpEn, .gpio .excite true]
        ctx := .handler
        task := some .subintWarm })

/-- `PERIOD` of phase 1: only `ctr` changes in step 1, then steps 2 to 5 run to the end, or the handler stays at the converter's
question (43 R215, R220 to R233, 70 R325). -/
def Obligations.PeriodDwellCompletes : Prop :=
  ∀ s : State, Ready s → s.ctr = .powerUp → FinishesOrWaits s (afterDwell s)

/-- `PERIOD` of phase 0 with a device that acknowledges: the hold, power, settle delay, every write of `CFG_SEQ`, the edge
interrupt, then steps 2 to 5 or the wait at the converter (43 R214, R220 to R233). -/
def Obligations.PeriodPowerUpCompletes : Prop :=
  ∀ (s : State) (acks : List Bool), Ready s → s.ctr = .tearDown → s.holdOf s.cfg.mBus ≠ 2 ^ s.cfg.holdW - 1 →
    s.env.busAck = List.replicate (3 * s.cfg.cfgSeq.length) true ++ acks →
    FinishesOrWaits s (afterPowerUp s (s.cfg.cfgSeq.flatMap fun w => writeTrace s.cfg w.1 w.2) acks s.err)

/-- `PERIOD` of phase 2 with a device that acknowledges: the edge interrupt off, the power-off write, power off, the hold
released, then steps 2 to 5 or the wait at the converter (43 R216, R220 to R233). -/
def Obligations.PeriodTearDownCompletes : Prop :=
  ∀ (s : State) (acks : List Bool), Ready s → s.ctr = .dwell → s.holdOf s.cfg.mBus ≠ 0 →
    s.env.busAck = true :: true :: true :: acks →
    FinishesOrWaits s (afterTearDown s (writeTrace s.cfg s.cfg.offWrite.1 s.cfg.offWrite.2) acks s.err)

/-- A write that times out, at any of its waits, costs `PERIOD` only the rest of the writes: at power-up, where any write of
`CFG_SEQ` may be the one, the edge interrupt is armed all the same; at tear-down power goes off and the hold is released all
the same; steps 2 to 5 follow as always (43 R217). -/
def Obligations.PeriodSurvivesADeadDevice : Prop :=
  ∀ (s : State) (acks : List Bool) (k : Nat), Ready s → k < 3 →
    (∀ before w after, s.ctr = .tearDown → s.holdOf s.cfg.mBus ≠ 2 ^ s.cfg.holdW - 1 →
      s.cfg.cfgSeq = before ++ w :: after →
      s.env.busAck = List.replicate (3 * before.length + k) true ++ false :: acks →
      FinishesOrWaits s (afterPowerUp s ((before.flatMap fun w => writeTrace s.cfg w.1 w.2) ++
        (writeTrace s.cfg w.1 w.2).take (k + 2) ++ abandonTrace s.cfg) acks (timedOut s.err))) ∧
    (s.ctr = .dwell → s.holdOf s.cfg.mBus ≠ 0 → s.env.busAck = List.replicate k true ++ false :: acks →
      FinishesOrWaits s (afterTearDown s ((writeTrace s.cfg s.cfg.offWrite.1 s.cfg.offWrite.2).take (k + 2) ++
        abandonTrace s.cfg) acks (timedOut s.err)))

/-- A hold that cannot be taken or dropped stops `PERIOD` at that action: what came before is done, `FAULTED`, nothing after
(43 R210, 60 R275, R276). The four places: the acquire of `M_BUS` at power-up (43 R214), the release of `M_BUS` at tear-down,
however the power-off write went (R216, R217), the acquire of `M_ADC` in step 2 after any phase (R220), and the acquire of
`M_TX` in step 5 (R233). -/
def Obligations.PeriodStopsAtAFatalHold : Prop :=
  ∀ s : State, Ready s →
    (s.ctr = .tearDown → s.holdOf s.cfg.mBus = 2 ^ s.cfg.holdW - 1 → exec .period s = .next { s with
      ctr := .powerUp
      ctx := .faulted
      fault := { s.fault with holdOverflow := true }
      pend := { s.pend with period := false } }) ∧
    (∀ sent acks e, s.ctr = .dwell → s.holdOf s.cfg.mBus = 0 → WritesAnswered s [s.cfg.offWrite] sent acks e →
      exec .period s = .next { s with
        ctr := .tearDown
        ctx := .faulted
        fault := { s.fault with sleepHoldMismatch := true }
        out := { s.out with pwrEn := false, edgeIrqEn := false }
        pend := { s.pend with period := false, edge := false }
        err := e
        env := { s.env with busAck := acks }
        trace := s.trace ++ [.edgeIrq false] ++ sent ++ [.gpio .pwrEn false] }) ∧
    (∀ p, EntersStepTwo s p → p.holdOf p.cfg.mAdc = 2 ^ p.cfg.holdW - 1 →
      exec .period s = .next { p with ctx := .faulted, fault := { p.fault with holdOverflow := true } }) ∧
    (∀ p waits codes c, EntersStepTwo s p → RoomForSampling p → p.holdOf p.cfg.mTx = 2 ^ p.cfg.holdW - 1 →
      5 ≤ p.cfg.rbCap → SamplingAnswers p waits codes c →
      ∃ t, exec .period s = .next t ∧ StopsAtTheTransmitter p t waits codes c)

/-- On a ring too small for a burst step 5 ends at the enqueue after the last that fits: the flag is set, no hold is taken and
nothing is sent; `PERIOD`, after any phase, ends in `MAIN` all the same (43 R232). -/
def Obligations.SmallRingSkipsTheBurst : Prop :=
  (∀ s : State, s.cfg.rbCap < 5 → s.cfg.rbCap ≤ s.cfg.capMax →
    ∃ t, handOff s = .next t ∧ t.ctx = .main ∧ t.err = { s.err with bufFull := true } ∧ t.hold = s.hold ∧
      t.trace = s.trace ∧ t.rbCount = BitVec.ofNat 8 s.cfg.rbCap ∧
      t.queue = ((burst s).take s.cfg.rbCap).map some) ∧
  (∀ (s p : State) (waits codes : List Nat) (c : Bool), Ready s → EntersStepTwo s p → RoomForSampling p →
    p.cfg.rbCap < 5 → SamplingAnswers p waits codes c →
    ∃ t, exec .period s = .next t ∧ SkipsTheBurst p t waits codes c)

/-- The sum of all results is exact, below 2^24, and its mean is a raw code again, however often each conversion is asked for
before it is done (43 R220, R221). -/
def Obligations.MeanIsARawCode : Prop :=
  (∀ (s : State) (waits codes rest : List Nat) (done : List Bool), waits.length = codes.length →
    (∀ k ∈ codes, k < 2 ^ s.cfg.adcW) → s.env.adcDone = doneAnswers waits ++ done → s.env.adcResult = codes ++ rest →
    adcLoop codes.length 0 s = .sum codes.sum { s with
      env := { s.env with adcDone := done, adcResult := rest }
      trace := s.trace ++ List.replicate codes.length .adcStart }) ∧
  (∀ (c : Config) (codes : List Nat), configOk c = true → codes.length = c.adcSamples → (∀ k ∈ codes, k < 2 ^ c.adcW) →
    codes.sum < 2 ^ 24 ∧ codes.sum / c.adcSamples < 2 ^ c.adcW) ∧
  ([100, 102, 98, 100].sum / 4 = 100 ∧ [100, 101, 100, 100].sum / 4 = 100)

/-- R229: on a change the threshold level toggles and its reference channel is emitted, the status output toggles, and the
new reading is kept; on an unchanged reading nothing is emitted. -/
def Obligations.HysteresisTogglesOnAChange : Prop :=
  ∀ (s : State) (c : Bool),
    (c ≠ s.lastCmp → s.hysteresis c = { s with
      thr := (match s.thr with | .low => .high | .high => .low)
      led := !s.led
      out := { s.out with status := !s.led }
      lastCmp := c
      trace := s.trace ++ [.acmpRef (match s.thr with | .low => s.cfg.refHigh | .high => s.cfg.refLow),
        .gpio .status (!s.led)] }) ∧
    (c = s.lastCmp → s.hysteresis c = s)

/-- R237 for any sequence of readings: the level and the status output have toggled once per change of the reading and never
otherwise, so they are back where they began exactly when the reading is. -/
def Obligations.LevelTogglesOncePerChange : Prop :=
  ∀ (readings : List Bool) (s : State),
    let t := readings.foldl State.hysteresis s
    let changes := ((s.lastCmp :: readings).zip readings).countP fun p => p.1 ≠ p.2
    t.trace.length = s.trace.length + 2 * changes ∧
    (t.thr = s.thr ↔ changes % 2 = 0) ∧ (t.led = s.led ↔ changes % 2 = 0) ∧
    (t.lastCmp = s.lastCmp ↔ changes % 2 = 0)

/-- `TXRDY` sends the oldest byte while there is one; finding the ring empty it releases `M_TX`, which is fatal when no hold
is there (43 R235). -/
def Obligations.TxrdySendsOrReleases : Prop :=
  ∀ s : State, Ready s → RingOk s →
    (0 < s.rbCount.toNat → ∃ v m, Memory.read s.rbMem s.rbTail.toNat = some v ∧
      (∀ a, a ≠ s.rbTail.toNat → Memory.read m a = Memory.read s.rbMem a) ∧
      exec .txrdy s = .next { s with
        pend := { s.pend with txrdy := false }
        rbMem := m
        rbTail := BitVec.ofNat 8 ((s.rbTail.toNat + 1) % s.rbCap.toNat)
        rbCount := BitVec.ofNat 8 (s.rbCount.toNat - 1)
        trace := s.trace ++ [.txSend v] }) ∧
    (s.rbCount = 0#8 → s.holdOf s.cfg.mTx ≠ 0 → exec .txrdy s = .next { s with
      pend := { s.pend with txrdy := false }
      hold := s.hold.set s.cfg.mTx (s.holdOf s.cfg.mTx - 1) }) ∧
    (s.rbCount = 0#8 → s.holdOf s.cfg.mTx = 0 → exec .txrdy s = .next { s with
      pend := { s.pend with txrdy := false }
      fault := { s.fault with sleepHoldMismatch := true }
      ctx := .faulted })

/-- `EDGE` forwards the interrupt and changes no cell but its own pending bit (43 R236). -/
def Obligations.EdgeIsForwarded : Prop :=
  ∀ s : State, Ready s →
    exec .edge s = .next { s with pend := { s.pend with edge := false }, trace := s.trace ++ [.edgeFwd] }

/-- Only `PERIOD` writes DutyCycleState (10_state R38); only it and `SUBINT` write the output latch (10_state R30); only
`ACQ`, `REL`, `PERIOD` and `TXRDY` write the hold table; only `ALLOC`, `ENQ`, `DEQ`, `PERIOD` and `TXRDY` write the ring; no
operation writes the configuration (R30). -/
def Obligations.CellsHaveTheirWriters : Prop :=
  ∀ (i : Instr) (s t : State), exec i s = .next t →
    (i ≠ .period → t.ctr = s.ctr ∧ t.lastCmp = s.lastCmp ∧ t.led = s.led ∧ t.thr = s.thr ∧ t.temp = s.temp) ∧
    (i ≠ .period → i ≠ .subint → t.out = s.out) ∧
    (i ≠ .period → i ≠ .txrdy → (∀ m, i ≠ .acq m ∧ i ≠ .rel m) → t.hold = s.hold) ∧
    (i ≠ .period → i ≠ .txrdy → i ≠ .deq → (∀ b, i ≠ .alloc b ∧ i ≠ .enq b) →
      t.rbCap = s.rbCap ∧ t.rbHead = s.rbHead ∧ t.rbTail = s.rbTail ∧ t.rbCount = s.rbCount ∧ t.rbMem = s.rbMem) ∧
    t.cfg = s.cfg ∧ t.cmdIn = s.cmdIn ∧ t.script = s.script ∧ t.choiceIx = s.choiceIx

/-- An operation that waits for an answer is no different from one that had the answer from the start: going on from where it
waits, with more answers ready, is running it with all of them (10_state R40: the small-step and the big-step form are
equivalent). That answers lie ready in the state and an operation stays at a question without one is the model's choice
(notes/assumptions/2.md, 20.md). -/
def Obligations.WaitingIsTransparent : Prop :=
  ∀ (i : Instr) (s s1 : State) (t : Task) (e : Env), Ready s → exec i s = .next s1 → s1.task = some t →
    exec i (s.moreAnswers e) = resume t (s1.moreAnswers e)

/-- After 3N complete period boundaries from reset, with other operations between them that are complete and back in `MAIN` (so
no `ENTER` that parks, no fatal error), the power-enable output has been driven high and low N times, alternating and high
first, and it is low (43 R218). -/
def Obligations.DevicePowerCyclesOncePerThreePeriods : Prop :=
  ∀ (c : Config) (ops : List (Instr × Env)) (n : Nat) (s : State), runOps ops (State.resetOf c) = some s →
    (ops.countP fun op => op.1 = .period) = 3 * n →
    s.trace.filter Action.isPower = (List.replicate n [.gpio .pwrEn true, .gpio .pwrEn false]).flatten ∧
    s.out.pwrEn = false

/-! ### Binary32 -/

/-- The calibration formula: under every configuration and for every raw code, `convert` is `CAL_TEMP` minus the quotient of
`CAL_CODE - mean` by `GRADIENT`, in this order, and has a result (43 R225); the integer it starts from is below 2^16 in
magnitude, and every such integer is converted exactly (43 R226). With the scenario's anchors the codes 100, 99 and 4095 give
25.0, 24.9 and 424.5 (R225, 95 section 6). Binary32 is PRESUMED (notes/assumptions/14.md). -/
def Obligations.ConvertIsTheCalibrationFormula : Prop :=
  (∀ (c : Config) (mean : Nat), configOk c = true → mean < 2 ^ c.adcW →
    ((c.calCode : Int) - mean).natAbs < 2 ^ 16 ∧
    ∃ q t, f32Div (f32OfInt ((c.calCode : Int) - mean)) c.gradient = some q ∧ f32Sub c.calTemp q = some t ∧
      convert c mean = some t) ∧
  (∀ d : Int, d.natAbs < 2 ^ 16 →
    f32Finite (f32OfInt d) = true ∧ f32Int (f32OfInt d) * 2 ^ (f32Pow (f32OfInt d) + 149).toNat = d * 2 ^ 149) ∧
  ([100, 99, 4095].map (convert Config.test) = [some 0x41C80000#32, some 0x41C73333#32, some 0x43D44000#32])

/-- Subtracting a zero of either sign changes no finite number that is not a zero; of two zeros the difference is `+0.0`, but
`-0.0` when `+0.0` is taken from `-0.0`, so that it is the minuend unless the two cancel (43 R226; binary32 is PRESUMED,
notes/assumptions/14.md). -/
def Obligations.SubtractingZeroIsExact : Prop :=
  (∀ a b : F32, f32Finite a = true → f32Zero a = false → f32Zero b = true → f32Sub a b = some a) ∧
  (∀ a b : F32, f32Zero a = true → f32Zero b = true →
    f32Sub a b = some (if a = 0x80000000#32 ∧ b = 0x00000000#32 then 0x80000000#32 else 0x00000000#32))

/-- Division and subtraction are correctly rounded, to nearest, ties to even, with an infinity of the right sign on overflow and
the sign of a zero as IEEE 754 has it (43 R226; binary32 is PRESUMED, notes/assumptions/14.md). First the two roundings they
are made of: of a quotient to an integer, and of a quotient to a binary32. -/
def Obligations.FloatsRoundToNearestEven : Prop :=
  (∀ n d : Nat, 0 < d →
    2 * roundDiv n d * d ≤ 2 * n + d ∧ 2 * n ≤ 2 * roundDiv n d * d + d ∧
    (2 * roundDiv n d * d = 2 * n + d ∨ 2 * n = 2 * roundDiv n d * d + d → roundDiv n d % 2 = 0)) ∧
  (∀ (sign : Bool) (n d : Nat), 0 < d →
    f32Sign (f32Round sign n d) = sign ∧
    RoundedTo (if sign then -((n : Int) * 2 ^ 149) else (n : Int) * 2 ^ 149) d (f32Round sign n d)) ∧
  (∀ a b : F32, f32Finite a = true → f32Finite b = true → f32Zero b = false →
    ∃ r, f32Div a b = some r ∧ f32Sign r = (f32Sign a ^^ f32Sign b) ∧
      RoundedTo (f32Units a * (f32Units b).sign * 2 ^ 149) (f32Units b).natAbs r) ∧
  (∀ a b : F32, f32Finite a = true → f32Finite b = true →
    ∃ r, f32Sub a b = some r ∧ RoundedTo (f32Units a - f32Units b) 1 r ∧
      (f32Units a ≠ f32Units b → f32Sign r = decide (f32Units a < f32Units b)) ∧
      (f32Units a = f32Units b →
        r = if a = 0x80000000#32 ∧ b = 0x00000000#32 then 0x80000000#32 else 0x00000000#32)) ∧
  (∀ a : F32, f32Finite a = true →
    f32Sub a 0x7F800000#32 = some 0xFF800000#32 ∧ f32Sub a 0xFF800000#32 = some 0x7F800000#32)

/-! ### Reset -/

/-- R60: the value of every cell after reset, under any configuration; the storage is the one cell R60 leaves unspecified. -/
def Obligations.ResetValues : Prop :=
  ∀ c : Config,
    (∀ m, m < c.nmodes → (State.resetOf c).holdOf m = 0) ∧ (State.resetOf c).hold.length = c.nmodes ∧
    (State.resetOf c).rbCap = BitVec.ofNat 8 c.rbCap ∧ (State.resetOf c).rbHead = 0#8 ∧ (State.resetOf c).rbTail = 0#8 ∧
    (State.resetOf c).rbCount = 0#8 ∧ (State.resetOf c).ctr = .tearDown ∧ (State.resetOf c).lastCmp = false ∧
    (State.resetOf c).led = false ∧ (State.resetOf c).thr = .low ∧ (State.resetOf c).temp = 0x00000000#32 ∧
    (State.resetOf c).out = OutLatch.zero ∧ (State.resetOf c).err = ErrFlags.zero ∧
    (State.resetOf c).fault = FaultFlags.zero ∧ (State.resetOf c).pend = Pend.zero ∧ (State.resetOf c).ctx = .main

/-- Reset can occur in any context: the cells take their reset values under the configuration supplied, the running
operation is dropped without a response, and boot emits its actions (70 R310). That the ports' logs and queues are kept is
the model's (notes/assumptions/19.md). -/
def Obligations.ResetWorksInAnyContext : Prop :=
  ∀ (s : State) (c : Config), s.envAct (.reset c) =
    { State.resetOf c with
      env := s.env, cmdIn := s.cmdIn, script := s.script, rsp := s.rsp, choiceIx := s.choiceIx
      trace := s.trace ++ [.clkEn .timer, .clkEn .comparator, .clkEn .adc, .clkEn .serialBus, .clkEn .gpio] }

/-- The constraints of 00_scope R10, spelled out, and that a record which breaks one is no configuration of the block: every
operation is refused (93 I7, notes/assumptions/5.md). The widths that the types of the record give (`DEV_ADDR`, `CMD_MARK`,
the bytes of the writes) need no clause. -/
def Obligations.InvalidConfigurationIsRefused : Prop :=
  (∀ c : Config, configOk c = true ↔
    2 ≤ c.nmodes ∧ c.nmodes ≤ 16 ∧ 1 ≤ c.holdW ∧ c.holdW ≤ 8 ∧ 1 ≤ c.capMax ∧ c.capMax ≤ 255 ∧ c.rbCap ≤ c.capMax ∧
    1 ≤ c.timeoutPolls ∧ c.mBus < c.nmodes ∧ c.mAdc < c.nmodes ∧ c.mTx < c.nmodes ∧
    1 ≤ c.adcSamples ∧ c.adcSamples ≤ 255 ∧ 1 ≤ c.adcW ∧ c.adcW ≤ 16 ∧
    c.calTemp.extractLsb' 23 8 ≠ 0xFF#8 ∧ c.calCode < 2 ^ 16 ∧
    c.gradient.extractLsb' 23 8 ≠ 0xFF#8 ∧ c.gradient ≠ 0x00000000#32 ∧ c.gradient ≠ 0x80000000#32 ∧
    c.refLow ≠ c.refHigh) ∧
  ∀ (i : Instr) (s : State), configOk s.cfg = false → exec i s = .refused .invalidConfig

/-! ### Invariants -/

/-- The invariant holds right after reset under every configuration that meets 00_scope R10. -/
def Obligations.ResetMeetsTheInvariant : Prop :=
  ∀ c : Config, configOk c = true → BlockInv (State.resetOf c)

/-- Every step keeps the invariant of the block: the hold counters within their width, the ring invariant and its storage,
the context and the fatal flags, the parked mode, the latches, the power schedule, the temperature. -/
def Obligations.StepKeepsTheInvariant : Prop :=
  ∀ s t : State, BlockInv s → step s = .next t → BlockInv t

/-- From a state that meets the invariant no step ends in a fault of the model. -/
def Obligations.NoStepFaults : Prop :=
  ∀ (s : State) (f : Fault), BlockInv s → step s ≠ .fault f

/-- From a state that meets the invariant a step is refused only for an ADC code wider than `ADC_W` that the environment has
ready (93 I13). -/
def Obligations.OnlyAWideCodeIsRefused : Prop :=
  ∀ (s : State) (r : Refusal), BlockInv s → step s = .refused r →
    r = .adcResultTooWide ∧ ∃ c ∈ s.environment.env.adcResult, 2 ^ s.environment.cfg.adcW ≤ c
end

