-- ==== Sys2Proof/Laws/State.lean ====
section
/-! SUPPORT. One lemma per field per named update of the state, true by definition: no proof unfolds a record update. -/

namespace Sys2Proof.Machine

/-! ### `emit` -/

@[simp] theorem State.emit_hold (s : State) (a : Action) : (s.emit a).hold = s.hold := rfl
@[simp] theorem State.emit_rbCap (s : State) (a : Action) : (s.emit a).rbCap = s.rbCap := rfl
@[simp] theorem State.emit_rbHead (s : State) (a : Action) : (s.emit a).rbHead = s.rbHead := rfl
@[simp] theorem State.emit_rbTail (s : State) (a : Action) : (s.emit a).rbTail = s.rbTail := rfl
@[simp] theorem State.emit_rbCount (s : State) (a : Action) : (s.emit a).rbCount = s.rbCount := rfl
@[simp] theorem State.emit_rbMem (s : State) (a : Action) : (s.emit a).rbMem = s.rbMem := rfl
@[simp] theorem State.emit_ctr (s : State) (a : Action) : (s.emit a).ctr = s.ctr := rfl
@[simp] theorem State.emit_lastCmp (s : State) (a : Action) : (s.emit a).lastCmp = s.lastCmp := rfl
@[simp] theorem State.emit_led (s : State) (a : Action) : (s.emit a).led = s.led := rfl
@[simp] theorem State.emit_thr (s : State) (a : Action) : (s.emit a).thr = s.thr := rfl
@[simp] theorem State.emit_temp (s : State) (a : Action) : (s.emit a).temp = s.temp := rfl
@[simp] theorem State.emit_out (s : State) (a : Action) : (s.emit a).out = s.out := rfl
@[simp] theorem State.emit_err (s : State) (a : Action) : (s.emit a).err = s.err := rfl
@[simp] theorem State.emit_fault (s : State) (a : Action) : (s.emit a).fault = s.fault := rfl
@[simp] theorem State.emit_pend (s : State) (a : Action) : (s.emit a).pend = s.pend := rfl
@[simp] theorem State.emit_ctx (s : State) (a : Action) : (s.emit a).ctx = s.ctx := rfl
@[simp] theorem State.emit_task (s : State) (a : Action) : (s.emit a).task = s.task := rfl
@[simp] theorem State.emit_cfg (s : State) (a : Action) : (s.emit a).cfg = s.cfg := rfl
@[simp] theorem State.emit_env (s : State) (a : Action) : (s.emit a).env = s.env := rfl
@[simp] theorem State.emit_cmdIn (s : State) (a : Action) : (s.emit a).cmdIn = s.cmdIn := rfl
@[simp] theorem State.emit_script (s : State) (a : Action) : (s.emit a).script = s.script := rfl
@[simp] theorem State.emit_trace (s : State) (a : Action) : (s.emit a).trace = s.trace ++ [a] := rfl
@[simp] theorem State.emit_rsp (s : State) (a : Action) : (s.emit a).rsp = s.rsp := rfl
@[simp] theorem State.emit_choiceIx (s : State) (a : Action) : (s.emit a).choiceIx = s.choiceIx := rfl

/-! ### `respond` -/

@[simp] theorem State.respond_hold (s : State) (st : Status) (d : Byte) : (s.respond st d).hold = s.hold := rfl
@[simp] theorem State.respond_rbCap (s : State) (st : Status) (d : Byte) : (s.respond st d).rbCap = s.rbCap := rfl
@[simp] theorem State.respond_rbHead (s : State) (st : Status) (d : Byte) : (s.respond st d).rbHead = s.rbHead := rfl
@[simp] theorem State.respond_rbTail (s : State) (st : Status) (d : Byte) : (s.respond st d).rbTail = s.rbTail := rfl
@[simp] theorem State.respond_rbCount (s : State) (st : Status) (d : Byte) : (s.respond st d).rbCount = s.rbCount := rfl
@[simp] theorem State.respond_rbMem (s : State) (st : Status) (d : Byte) : (s.respond st d).rbMem = s.rbMem := rfl
@[simp] theorem State.respond_ctr (s : State) (st : Status) (d : Byte) : (s.respond st d).ctr = s.ctr := rfl
@[simp] theorem State.respond_lastCmp (s : State) (st : Status) (d : Byte) : (s.respond st d).lastCmp = s.lastCmp := rfl
@[simp] theorem State.respond_led (s : State) (st : Status) (d : Byte) : (s.respond st d).led = s.led := rfl
@[simp] theorem State.respond_thr (s : State) (st : Status) (d : Byte) : (s.respond st d).thr = s.thr := rfl
@[simp] theorem State.respond_temp (s : State) (st : Status) (d : Byte) : (s.respond st d).temp = s.temp := rfl
@[simp] theorem State.respond_out (s : State) (st : Status) (d : Byte) : (s.respond st d).out = s.out := rfl
@[simp] theorem State.respond_err (s : State) (st : Status) (d : Byte) : (s.respond st d).err = s.err := rfl
@[simp] theorem State.respond_fault (s : State) (st : Status) (d : Byte) : (s.respond st d).fault = s.fault := rfl
@[simp] theorem State.respond_pend (s : State) (st : Status) (d : Byte) : (s.respond st d).pend = s.pend := rfl
@[simp] theorem State.respond_ctx (s : State) (st : Status) (d : Byte) : (s.respond st d).ctx = s.ctx := rfl
@[simp] theorem State.respond_task (s : State) (st : Status) (d : Byte) : (s.respond st d).task = s.task := rfl
@[simp] theorem State.respond_cfg (s : State) (st : Status) (d : Byte) : (s.respond st d).cfg = s.cfg := rfl
@[simp] theorem State.respond_env (s : State) (st : Status) (d : Byte) : (s.respond st d).env = s.env := rfl
@[simp] theorem State.respond_cmdIn (s : State) (st : Status) (d : Byte) : (s.respond st d).cmdIn = s.cmdIn := rfl
@[simp] theorem State.respond_script (s : State) (st : Status) (d : Byte) : (s.respond st d).script = s.script := rfl
@[simp] theorem State.respond_trace (s : State) (st : Status) (d : Byte) : (s.respond st d).trace = s.trace := rfl
@[simp] theorem State.respond_rsp (s : State) (st : Status) (d : Byte) : (s.respond st d).rsp = s.rsp ++ [rspWord st d] := rfl
@[simp] theorem State.respond_choiceIx (s : State) (st : Status) (d : Byte) : (s.respond st d).choiceIx = s.choiceIx := rfl

/-! ### `setHold` -/

@[simp] theorem State.setHold_hold (s : State) (m v : Nat) : (s.setHold m v).hold = s.hold.set m v := rfl
@[simp] theorem State.setHold_rbCap (s : State) (m v : Nat) : (s.setHold m v).rbCap = s.rbCap := rfl
@[simp] theorem State.setHold_rbHead (s : State) (m v : Nat) : (s.setHold m v).rbHead = s.rbHead := rfl
@[simp] theorem State.setHold_rbTail (s : State) (m v : Nat) : (s.setHold m v).rbTail = s.rbTail := rfl
@[simp] theorem State.setHold_rbCount (s : State) (m v : Nat) : (s.setHold m v).rbCount = s.rbCount := rfl
@[simp] theorem State.setHold_rbMem (s : State) (m v : Nat) : (s.setHold m v).rbMem = s.rbMem := rfl
@[simp] theorem State.setHold_ctr (s : State) (m v : Nat) : (s.setHold m v).ctr = s.ctr := rfl
@[simp] theorem State.setHold_lastCmp (s : State) (m v : Nat) : (s.setHold m v).lastCmp = s.lastCmp := rfl
@[simp] theorem State.setHold_led (s : State) (m v : Nat) : (s.setHold m v).led = s.led := rfl
@[simp] theorem State.setHold_thr (s : State) (m v : Nat) : (s.setHold m v).thr = s.thr := rfl
@[simp] theorem State.setHold_temp (s : State) (m v : Nat) : (s.setHold m v).temp = s.temp := rfl
@[simp] theorem State.setHold_out (s : State) (m v : Nat) : (s.setHold m v).out = s.out := rfl
@[simp] theorem State.setHold_err (s : State) (m v : Nat) : (s.setHold m v).err = s.err := rfl
@[simp] theorem State.setHold_fault (s : State) (m v : Nat) : (s.setHold m v).fault = s.fault := rfl
@[simp] theorem State.setHold_pend (s : State) (m v : Nat) : (s.setHold m v).pend = s.pend := rfl
@[simp] theorem State.setHold_ctx (s : State) (m v : Nat) : (s.setHold m v).ctx = s.ctx := rfl
@[simp] theorem State.setHold_task (s : State) (m v : Nat) : (s.setHold m v).task = s.task := rfl
@[simp] theorem State.setHold_cfg (s : State) (m v : Nat) : (s.setHold m v).cfg = s.cfg := rfl
@[simp] theorem State.setHold_env (s : State) (m v : Nat) : (s.setHold m v).env = s.env := rfl
@[simp] theorem State.setHold_cmdIn (s : State) (m v : Nat) : (s.setHold m v).cmdIn = s.cmdIn := rfl
@[simp] theorem State.setHold_script (s : State) (m v : Nat) : (s.setHold m v).script = s.script := rfl
@[simp] theorem State.setHold_trace (s : State) (m v : Nat) : (s.setHold m v).trace = s.trace := rfl
@[simp] theorem State.setHold_rsp (s : State) (m v : Nat) : (s.setHold m v).rsp = s.rsp := rfl
@[simp] theorem State.setHold_choiceIx (s : State) (m v : Nat) : (s.setHold m v).choiceIx = s.choiceIx := rfl

/-! ### `setOut` -/

@[simp] theorem State.setOut_hold (s : State) (o : OutLatch) : (s.setOut o).hold = s.hold := rfl
@[simp] theorem State.setOut_rbCap (s : State) (o : OutLatch) : (s.setOut o).rbCap = s.rbCap := rfl
@[simp] theorem State.setOut_rbHead (s : State) (o : OutLatch) : (s.setOut o).rbHead = s.rbHead := rfl
@[simp] theorem State.setOut_rbTail (s : State) (o : OutLatch) : (s.setOut o).rbTail = s.rbTail := rfl
@[simp] theorem State.setOut_rbCount (s : State) (o : OutLatch) : (s.setOut o).rbCount = s.rbCount := rfl
@[simp] theorem State.setOut_rbMem (s : State) (o : OutLatch) : (s.setOut o).rbMem = s.rbMem := rfl
@[simp] theorem State.setOut_ctr (s : State) (o : OutLatch) : (s.setOut o).ctr = s.ctr := rfl
@[simp] theorem State.setOut_lastCmp (s : State) (o : OutLatch) : (s.setOut o).lastCmp = s.lastCmp := rfl
@[simp] theorem State.setOut_led (s : State) (o : OutLatch) : (s.setOut o).led = s.led := rfl
@[simp] theorem State.setOut_thr (s : State) (o : OutLatch) : (s.setOut o).thr = s.thr := rfl
@[simp] theorem State.setOut_temp (s : State) (o : OutLatch) : (s.setOut o).temp = s.temp := rfl
@[simp] theorem State.setOut_out (s : State) (o : OutLatch) : (s.setOut o).out = o := rfl
@[simp] theorem State.setOut_err (s : State) (o : OutLatch) : (s.setOut o).err = s.err := rfl
@[simp] theorem State.setOut_fault (s : State) (o : OutLatch) : (s.setOut o).fault = s.fault := rfl
@[simp] theorem State.setOut_pend (s : State) (o : OutLatch) : (s.setOut o).pend = s.pend := rfl
@[simp] theorem State.setOut_ctx (s : State) (o : OutLatch) : (s.setOut o).ctx = s.ctx := rfl
@[simp] theorem State.setOut_task (s : State) (o : OutLatch) : (s.setOut o).task = s.task := rfl
@[simp] theorem State.setOut_cfg (s : State) (o : OutLatch) : (s.setOut o).cfg = s.cfg := rfl
@[simp] theorem State.setOut_env (s : State) (o : OutLatch) : (s.setOut o).env = s.env := rfl
@[simp] theorem State.setOut_cmdIn (s : State) (o : OutLatch) : (s.setOut o).cmdIn = s.cmdIn := rfl
@[simp] theorem State.setOut_script (s : State) (o : OutLatch) : (s.setOut o).script = s.script := rfl
@[simp] theorem State.setOut_trace (s : State) (o : OutLatch) : (s.setOut o).trace = s.trace := rfl
@[simp] theorem State.setOut_rsp (s : State) (o : OutLatch) : (s.setOut o).rsp = s.rsp := rfl
@[simp] theorem State.setOut_choiceIx (s : State) (o : OutLatch) : (s.setOut o).choiceIx = s.choiceIx := rfl

/-! ### `setPend` -/

@[simp] theorem State.setPend_hold (s : State) (p : Pend) : (s.setPend p).hold = s.hold := rfl
@[simp] theorem State.setPend_rbCap (s : State) (p : Pend) : (s.setPend p).rbCap = s.rbCap := rfl
@[simp] theorem State.setPend_rbHead (s : State) (p : Pend) : (s.setPend p).rbHead = s.rbHead := rfl
@[simp] theorem State.setPend_rbTail (s : State) (p : Pend) : (s.setPend p).rbTail = s.rbTail := rfl
@[simp] theorem State.setPend_rbCount (s : State) (p : Pend) : (s.setPend p).rbCount = s.rbCount := rfl
@[simp] theorem State.setPend_rbMem (s : State) (p : Pend) : (s.setPend p).rbMem = s.rbMem := rfl
@[simp] theorem State.setPend_ctr (s : State) (p : Pend) : (s.setPend p).ctr = s.ctr := rfl
@[simp] theorem State.setPend_lastCmp (s : State) (p : Pend) : (s.setPend p).lastCmp = s.lastCmp := rfl
@[simp] theorem State.setPend_led (s : State) (p : Pend) : (s.setPend p).led = s.led := rfl
@[simp] theorem State.setPend_thr (s : State) (p : Pend) : (s.setPend p).thr = s.thr := rfl
@[simp] theorem State.setPend_temp (s : State) (p : Pend) : (s.setPend p).temp = s.temp := rfl
@[simp] theorem State.setPend_out (s : State) (p : Pend) : (s.setPend p).out = s.out := rfl
@[simp] theorem State.setPend_err (s : State) (p : Pend) : (s.setPend p).err = s.err := rfl
@[simp] theorem State.setPend_fault (s : State) (p : Pend) : (s.setPend p).fault = s.fault := rfl
@[simp] theorem State.setPend_pend (s : State) (p : Pend) : (s.setPend p).pend = p := rfl
@[simp] theorem State.setPend_ctx (s : State) (p : Pend) : (s.setPend p).ctx = s.ctx := rfl
@[simp] theorem State.setPend_task (s : State) (p : Pend) : (s.setPend p).task = s.task := rfl
@[simp] theorem State.setPend_cfg (s : State) (p : Pend) : (s.setPend p).cfg = s.cfg := rfl
@[simp] theorem State.setPend_env (s : State) (p : Pend) : (s.setPend p).env = s.env := rfl
@[simp] theorem State.setPend_cmdIn (s : State) (p : Pend) : (s.setPend p).cmdIn = s.cmdIn := rfl
@[simp] theorem State.setPend_script (s : State) (p : Pend) : (s.setPend p).script = s.script := rfl
@[simp] theorem State.setPend_trace (s : State) (p : Pend) : (s.setPend p).trace = s.trace := rfl
@[simp] theorem State.setPend_rsp (s : State) (p : Pend) : (s.setPend p).rsp = s.rsp := rfl
@[simp] theorem State.setPend_choiceIx (s : State) (p : Pend) : (s.setPend p).choiceIx = s.choiceIx := rfl

/-! ### `setCtx` -/

@[simp] theorem State.setCtx_hold (s : State) (c : Ctx) : (s.setCtx c).hold = s.hold := rfl
@[simp] theorem State.setCtx_rbCap (s : State) (c : Ctx) : (s.setCtx c).rbCap = s.rbCap := rfl
@[simp] theorem State.setCtx_rbHead (s : State) (c : Ctx) : (s.setCtx c).rbHead = s.rbHead := rfl
@[simp] theorem State.setCtx_rbTail (s : State) (c : Ctx) : (s.setCtx c).rbTail = s.rbTail := rfl
@[simp] theorem State.setCtx_rbCount (s : State) (c : Ctx) : (s.setCtx c).rbCount = s.rbCount := rfl
@[simp] theorem State.setCtx_rbMem (s : State) (c : Ctx) : (s.setCtx c).rbMem = s.rbMem := rfl
@[simp] theorem State.setCtx_ctr (s : State) (c : Ctx) : (s.setCtx c).ctr = s.ctr := rfl
@[simp] theorem State.setCtx_lastCmp (s : State) (c : Ctx) : (s.setCtx c).lastCmp = s.lastCmp := rfl
@[simp] theorem State.setCtx_led (s : State) (c : Ctx) : (s.setCtx c).led = s.led := rfl
@[simp] theorem State.setCtx_thr (s : State) (c : Ctx) : (s.setCtx c).thr = s.thr := rfl
@[simp] theorem State.setCtx_temp (s : State) (c : Ctx) : (s.setCtx c).temp = s.temp := rfl
@[simp] theorem State.setCtx_out (s : State) (c : Ctx) : (s.setCtx c).out = s.out := rfl
@[simp] theorem State.setCtx_err (s : State) (c : Ctx) : (s.setCtx c).err = s.err := rfl
@[simp] theorem State.setCtx_fault (s : State) (c : Ctx) : (s.setCtx c).fault = s.fault := rfl
@[simp] theorem State.setCtx_pend (s : State) (c : Ctx) : (s.setCtx c).pend = s.pend := rfl
@[simp] theorem State.setCtx_ctx (s : State) (c : Ctx) : (s.setCtx c).ctx = c := rfl
@[simp] theorem State.setCtx_task (s : State) (c : Ctx) : (s.setCtx c).task = s.task := rfl
@[simp] theorem State.setCtx_cfg (s : State) (c : Ctx) : (s.setCtx c).cfg = s.cfg := rfl
@[simp] theorem State.setCtx_env (s : State) (c : Ctx) : (s.setCtx c).env = s.env := rfl
@[simp] theorem State.setCtx_cmdIn (s : State) (c : Ctx) : (s.setCtx c).cmdIn = s.cmdIn := rfl
@[simp] theorem State.setCtx_script (s : State) (c : Ctx) : (s.setCtx c).script = s.script := rfl
@[simp] theorem State.setCtx_trace (s : State) (c : Ctx) : (s.setCtx c).trace = s.trace := rfl
@[simp] theorem State.setCtx_rsp (s : State) (c : Ctx) : (s.setCtx c).rsp = s.rsp := rfl
@[simp] theorem State.setCtx_choiceIx (s : State) (c : Ctx) : (s.setCtx c).choiceIx = s.choiceIx := rfl

/-! ### `setTask` -/

@[simp] theorem State.setTask_hold (s : State) (t : Option Task) : (s.setTask t).hold = s.hold := rfl
@[simp] theorem State.setTask_rbCap (s : State) (t : Option Task) : (s.setTask t).rbCap = s.rbCap := rfl
@[simp] theorem State.setTask_rbHead (s : State) (t : Option Task) : (s.setTask t).rbHead = s.rbHead := rfl
@[simp] theorem State.setTask_rbTail (s : State) (t : Option Task) : (s.setTask t).rbTail = s.rbTail := rfl
@[simp] theorem State.setTask_rbCount (s : State) (t : Option Task) : (s.setTask t).rbCount = s.rbCount := rfl
@[simp] theorem State.setTask_rbMem (s : State) (t : Option Task) : (s.setTask t).rbMem = s.rbMem := rfl
@[simp] theorem State.setTask_ctr (s : State) (t : Option Task) : (s.setTask t).ctr = s.ctr := rfl
@[simp] theorem State.setTask_lastCmp (s : State) (t : Option Task) : (s.setTask t).lastCmp = s.lastCmp := rfl
@[simp] theorem State.setTask_led (s : State) (t : Option Task) : (s.setTask t).led = s.led := rfl
@[simp] theorem State.setTask_thr (s : State) (t : Option Task) : (s.setTask t).thr = s.thr := rfl
@[simp] theorem State.setTask_temp (s : State) (t : Option Task) : (s.setTask t).temp = s.temp := rfl
@[simp] theorem State.setTask_out (s : State) (t : Option Task) : (s.setTask t).out = s.out := rfl
@[simp] theorem State.setTask_err (s : State) (t : Option Task) : (s.setTask t).err = s.err := rfl
@[simp] theorem State.setTask_fault (s : State) (t : Option Task) : (s.setTask t).fault = s.fault := rfl
@[simp] theorem State.setTask_pend (s : State) (t : Option Task) : (s.setTask t).pend = s.pend := rfl
@[simp] theorem State.setTask_ctx (s : State) (t : Option Task) : (s.setTask t).ctx = s.ctx := rfl
@[simp] theorem State.setTask_task (s : State) (t : Option Task) : (s.setTask t).task = t := rfl
@[simp] theorem State.setTask_cfg (s : State) (t : Option Task) : (s.setTask t).cfg = s.cfg := rfl
@[simp] theorem State.setTask_env (s : State) (t : Option Task) : (s.setTask t).env = s.env := rfl
@[simp] theorem State.setTask_cmdIn (s : State) (t : Option Task) : (s.setTask t).cmdIn = s.cmdIn := rfl
@[simp] theorem State.setTask_script (s : State) (t : Option Task) : (s.setTask t).script = s.script := rfl
@[simp] theorem State.setTask_trace (s : State) (t : Option Task) : (s.setTask t).trace = s.trace := rfl
@[simp] theorem State.setTask_rsp (s : State) (t : Option Task) : (s.setTask t).rsp = s.rsp := rfl
@[simp] theorem State.setTask_choiceIx (s : State) (t : Option Task) : (s.setTask t).choiceIx = s.choiceIx := rfl

/-! ### `setEnv` -/

@[simp] theorem State.setEnv_hold (s : State) (e : Env) : (s.setEnv e).hold = s.hold := rfl
@[simp] theorem State.setEnv_rbCap (s : State) (e : Env) : (s.setEnv e).rbCap = s.rbCap := rfl
@[simp] theorem State.setEnv_rbHead (s : State) (e : Env) : (s.setEnv e).rbHead = s.rbHead := rfl
@[simp] theorem State.setEnv_rbTail (s : State) (e : Env) : (s.setEnv e).rbTail = s.rbTail := rfl
@[simp] theorem State.setEnv_rbCount (s : State) (e : Env) : (s.setEnv e).rbCount = s.rbCount := rfl
@[simp] theorem State.setEnv_rbMem (s : State) (e : Env) : (s.setEnv e).rbMem = s.rbMem := rfl
@[simp] theorem State.setEnv_ctr (s : State) (e : Env) : (s.setEnv e).ctr = s.ctr := rfl
@[simp] theorem State.setEnv_lastCmp (s : State) (e : Env) : (s.setEnv e).lastCmp = s.lastCmp := rfl
@[simp] theorem State.setEnv_led (s : State) (e : Env) : (s.setEnv e).led = s.led := rfl
@[simp] theorem State.setEnv_thr (s : State) (e : Env) : (s.setEnv e).thr = s.thr := rfl
@[simp] theorem State.setEnv_temp (s : State) (e : Env) : (s.setEnv e).temp = s.temp := rfl
@[simp] theorem State.setEnv_out (s : State) (e : Env) : (s.setEnv e).out = s.out := rfl
@[simp] theorem State.setEnv_err (s : State) (e : Env) : (s.setEnv e).err = s.err := rfl
@[simp] theorem State.setEnv_fault (s : State) (e : Env) : (s.setEnv e).fault = s.fault := rfl
@[simp] theorem State.setEnv_pend (s : State) (e : Env) : (s.setEnv e).pend = s.pend := rfl
@[simp] theorem State.setEnv_ctx (s : State) (e : Env) : (s.setEnv e).ctx = s.ctx := rfl
@[simp] theorem State.setEnv_task (s : State) (e : Env) : (s.setEnv e).task = s.task := rfl
@[simp] theorem State.setEnv_cfg (s : State) (e : Env) : (s.setEnv e).cfg = s.cfg := rfl
@[simp] theorem State.setEnv_env (s : State) (e : Env) : (s.setEnv e).env = e := rfl
@[simp] theorem State.setEnv_cmdIn (s : State) (e : Env) : (s.setEnv e).cmdIn = s.cmdIn := rfl
@[simp] theorem State.setEnv_script (s : State) (e : Env) : (s.setEnv e).script = s.script := rfl
@[simp] theorem State.setEnv_trace (s : State) (e : Env) : (s.setEnv e).trace = s.trace := rfl
@[simp] theorem State.setEnv_rsp (s : State) (e : Env) : (s.setEnv e).rsp = s.rsp := rfl
@[simp] theorem State.setEnv_choiceIx (s : State) (e : Env) : (s.setEnv e).choiceIx = s.choiceIx := rfl

/-! ### `setCtr` -/

@[simp] theorem State.setCtr_hold (s : State) (p : Phase) : (s.setCtr p).hold = s.hold := rfl
@[simp] theorem State.setCtr_rbCap (s : State) (p : Phase) : (s.setCtr p).rbCap = s.rbCap := rfl
@[simp] theorem State.setCtr_rbHead (s : State) (p : Phase) : (s.setCtr p).rbHead = s.rbHead := rfl
@[simp] theorem State.setCtr_rbTail (s : State) (p : Phase) : (s.setCtr p).rbTail = s.rbTail := rfl
@[simp] theorem State.setCtr_rbCount (s : State) (p : Phase) : (s.setCtr p).rbCount = s.rbCount := rfl
@[simp] theorem State.setCtr_rbMem (s : State) (p : Phase) : (s.setCtr p).rbMem = s.rbMem := rfl
@[simp] theorem State.setCtr_ctr (s : State) (p : Phase) : (s.setCtr p).ctr = p := rfl
@[simp] theorem State.setCtr_lastCmp (s : State) (p : Phase) : (s.setCtr p).lastCmp = s.lastCmp := rfl
@[simp] theorem State.setCtr_led (s : State) (p : Phase) : (s.setCtr p).led = s.led := rfl
@[simp] theorem State.setCtr_thr (s : State) (p : Phase) : (s.setCtr p).thr = s.thr := rfl
@[simp] theorem State.setCtr_temp (s : State) (p : Phase) : (s.setCtr p).temp = s.temp := rfl
@[simp] theorem State.setCtr_out (s : State) (p : Phase) : (s.setCtr p).out = s.out := rfl
@[simp] theorem State.setCtr_err (s : State) (p : Phase) : (s.setCtr p).err = s.err := rfl
@[simp] theorem State.setCtr_fault (s : State) (p : Phase) : (s.setCtr p).fault = s.fault := rfl
@[simp] theorem State.setCtr_pend (s : State) (p : Phase) : (s.setCtr p).pend = s.pend := rfl
@[simp] theorem State.setCtr_ctx (s : State) (p : Phase) : (s.setCtr p).ctx = s.ctx := rfl
@[simp] theorem State.setCtr_task (s : State) (p : Phase) : (s.setCtr p).task = s.task := rfl
@[simp] theorem State.setCtr_cfg (s : State) (p : Phase) : (s.setCtr p).cfg = s.cfg := rfl
@[simp] theorem State.setCtr_env (s : State) (p : Phase) : (s.setCtr p).env = s.env := rfl
@[simp] theorem State.setCtr_cmdIn (s : State) (p : Phase) : (s.setCtr p).cmdIn = s.cmdIn := rfl
@[simp] theorem State.setCtr_script (s : State) (p : Phase) : (s.setCtr p).script = s.script := rfl
@[simp] theorem State.setCtr_trace (s : State) (p : Phase) : (s.setCtr p).trace = s.trace := rfl
@[simp] theorem State.setCtr_rsp (s : State) (p : Phase) : (s.setCtr p).rsp = s.rsp := rfl
@[simp] theorem State.setCtr_choiceIx (s : State) (p : Phase) : (s.setCtr p).choiceIx = s.choiceIx := rfl

/-! ### `setTemp` -/

@[simp] theorem State.setTemp_hold (s : State) (t : F32) : (s.setTemp t).hold = s.hold := rfl
@[simp] theorem State.setTemp_rbCap (s : State) (t : F32) : (s.setTemp t).rbCap = s.rbCap := rfl
@[simp] theorem State.setTemp_rbHead (s : State) (t : F32) : (s.setTemp t).rbHead = s.rbHead := rfl
@[simp] theorem State.setTemp_rbTail (s : State) (t : F32) : (s.setTemp t).rbTail = s.rbTail := rfl
@[simp] theorem State.setTemp_rbCount (s : State) (t : F32) : (s.setTemp t).rbCount = s.rbCount := rfl
@[simp] theorem State.setTemp_rbMem (s : State) (t : F32) : (s.setTemp t).rbMem = s.rbMem := rfl
@[simp] theorem State.setTemp_ctr (s : State) (t : F32) : (s.setTemp t).ctr = s.ctr := rfl
@[simp] theorem State.setTemp_lastCmp (s : State) (t : F32) : (s.setTemp t).lastCmp = s.lastCmp := rfl
@[simp] theorem State.setTemp_led (s : State) (t : F32) : (s.setTemp t).led = s.led := rfl
@[simp] theorem State.setTemp_thr (s : State) (t : F32) : (s.setTemp t).thr = s.thr := rfl
@[simp] theorem State.setTemp_temp (s : State) (t : F32) : (s.setTemp t).temp = t := rfl
@[simp] theorem State.setTemp_out (s : State) (t : F32) : (s.setTemp t).out = s.out := rfl
@[simp] theorem State.setTemp_err (s : State) (t : F32) : (s.setTemp t).err = s.err := rfl
@[simp] theorem State.setTemp_fault (s : State) (t : F32) : (s.setTemp t).fault = s.fault := rfl
@[simp] theorem State.setTemp_pend (s : State) (t : F32) : (s.setTemp t).pend = s.pend := rfl
@[simp] theorem State.setTemp_ctx (s : State) (t : F32) : (s.setTemp t).ctx = s.ctx := rfl
@[simp] theorem State.setTemp_task (s : State) (t : F32) : (s.setTemp t).task = s.task := rfl
@[simp] theorem State.setTemp_cfg (s : State) (t : F32) : (s.setTemp t).cfg = s.cfg := rfl
@[simp] theorem State.setTemp_env (s : State) (t : F32) : (s.setTemp t).env = s.env := rfl
@[simp] theorem State.setTemp_cmdIn (s : State) (t : F32) : (s.setTemp t).cmdIn = s.cmdIn := rfl
@[simp] theorem State.setTemp_script (s : State) (t : F32) : (s.setTemp t).script = s.script := rfl
@[simp] theorem State.setTemp_trace (s : State) (t : F32) : (s.setTemp t).trace = s.trace := rfl
@[simp] theorem State.setTemp_rsp (s : State) (t : F32) : (s.setTemp t).rsp = s.rsp := rfl
@[simp] theorem State.setTemp_choiceIx (s : State) (t : F32) : (s.setTemp t).choiceIx = s.choiceIx := rfl

/-! ### `raiseErr` -/

@[simp] theorem State.raiseErr_hold (s : State) (k : ErrKind) : (s.raiseErr k).hold = s.hold := rfl
@[simp] theorem State.raiseErr_rbCap (s : State) (k : ErrKind) : (s.raiseErr k).rbCap = s.rbCap := rfl
@[simp] theorem State.raiseErr_rbHead (s : State) (k : ErrKind) : (s.raiseErr k).rbHead = s.rbHead := rfl
@[simp] theorem State.raiseErr_rbTail (s : State) (k : ErrKind) : (s.raiseErr k).rbTail = s.rbTail := rfl
@[simp] theorem State.raiseErr_rbCount (s : State) (k : ErrKind) : (s.raiseErr k).rbCount = s.rbCount := rfl
@[simp] theorem State.raiseErr_rbMem (s : State) (k : ErrKind) : (s.raiseErr k).rbMem = s.rbMem := rfl
@[simp] theorem State.raiseErr_ctr (s : State) (k : ErrKind) : (s.raiseErr k).ctr = s.ctr := rfl
@[simp] theorem State.raiseErr_lastCmp (s : State) (k : ErrKind) : (s.raiseErr k).lastCmp = s.lastCmp := rfl
@[simp] theorem State.raiseErr_led (s : State) (k : ErrKind) : (s.raiseErr k).led = s.led := rfl
@[simp] theorem State.raiseErr_thr (s : State) (k : ErrKind) : (s.raiseErr k).thr = s.thr := rfl
@[simp] theorem State.raiseErr_temp (s : State) (k : ErrKind) : (s.raiseErr k).temp = s.temp := rfl
@[simp] theorem State.raiseErr_out (s : State) (k : ErrKind) : (s.raiseErr k).out = s.out := rfl
@[simp] theorem State.raiseErr_err (s : State) (k : ErrKind) : (s.raiseErr k).err = s.err.set k := rfl
@[simp] theorem State.raiseErr_fault (s : State) (k : ErrKind) : (s.raiseErr k).fault = s.fault := rfl
@[simp] theorem State.raiseErr_pend (s : State) (k : ErrKind) : (s.raiseErr k).pend = s.pend := rfl
@[simp] theorem State.raiseErr_ctx (s : State) (k : ErrKind) : (s.raiseErr k).ctx = s.ctx := rfl
@[simp] theorem State.raiseErr_task (s : State) (k : ErrKind) : (s.raiseErr k).task = s.task := rfl
@[simp] theorem State.raiseErr_cfg (s : State) (k : ErrKind) : (s.raiseErr k).cfg = s.cfg := rfl
@[simp] theorem State.raiseErr_env (s : State) (k : ErrKind) : (s.raiseErr k).env = s.env := rfl
@[simp] theorem State.raiseErr_cmdIn (s : State) (k : ErrKind) : (s.raiseErr k).cmdIn = s.cmdIn := rfl
@[simp] theorem State.raiseErr_script (s : State) (k : ErrKind) : (s.raiseErr k).script = s.script := rfl
@[simp] theorem State.raiseErr_trace (s : State) (k : ErrKind) : (s.raiseErr k).trace = s.trace := rfl
@[simp] theorem State.raiseErr_rsp (s : State) (k : ErrKind) : (s.raiseErr k).rsp = s.rsp := rfl
@[simp] theorem State.raiseErr_choiceIx (s : State) (k : ErrKind) : (s.raiseErr k).choiceIx = s.choiceIx := rfl

/-! ### `raiseFatal` -/

@[simp] theorem State.raiseFatal_hold (s : State) (k : FatalKind) : (s.raiseFatal k).hold = s.hold := rfl
@[simp] theorem State.raiseFatal_rbCap (s : State) (k : FatalKind) : (s.raiseFatal k).rbCap = s.rbCap := rfl
@[simp] theorem State.raiseFatal_rbHead (s : State) (k : FatalKind) : (s.raiseFatal k).rbHead = s.rbHead := rfl
@[simp] theorem State.raiseFatal_rbTail (s : State) (k : FatalKind) : (s.raiseFatal k).rbTail = s.rbTail := rfl
@[simp] theorem State.raiseFatal_rbCount (s : State) (k : FatalKind) : (s.raiseFatal k).rbCount = s.rbCount := rfl
@[simp] theorem State.raiseFatal_rbMem (s : State) (k : FatalKind) : (s.raiseFatal k).rbMem = s.rbMem := rfl
@[simp] theorem State.raiseFatal_ctr (s : State) (k : FatalKind) : (s.raiseFatal k).ctr = s.ctr := rfl
@[simp] theorem State.raiseFatal_lastCmp (s : State) (k : FatalKind) : (s.raiseFatal k).lastCmp = s.lastCmp := rfl
@[simp] theorem State.raiseFatal_led (s : State) (k : FatalKind) : (s.raiseFatal k).led = s.led := rfl
@[simp] theorem State.raiseFatal_thr (s : State) (k : FatalKind) : (s.raiseFatal k).thr = s.thr := rfl
@[simp] theorem State.raiseFatal_temp (s : State) (k : FatalKind) : (s.raiseFatal k).temp = s.temp := rfl
@[simp] theorem State.raiseFatal_out (s : State) (k : FatalKind) : (s.raiseFatal k).out = s.out := rfl
@[simp] theorem State.raiseFatal_err (s : State) (k : FatalKind) : (s.raiseFatal k).err = s.err := rfl
@[simp] theorem State.raiseFatal_fault (s : State) (k : FatalKind) : (s.raiseFatal k).fault = s.fault.set k := rfl
@[simp] theorem State.raiseFatal_pend (s : State) (k : FatalKind) : (s.raiseFatal k).pend = s.pend := rfl
@[simp] theorem State.raiseFatal_ctx (s : State) (k : FatalKind) : (s.raiseFatal k).ctx = .faulted := rfl
@[simp] theorem State.raiseFatal_task (s : State) (k : FatalKind) : (s.raiseFatal k).task = none := rfl
@[simp] theorem State.raiseFatal_cfg (s : State) (k : FatalKind) : (s.raiseFatal k).cfg = s.cfg := rfl
@[simp] theorem State.raiseFatal_env (s : State) (k : FatalKind) : (s.raiseFatal k).env = s.env := rfl
@[simp] theorem State.raiseFatal_cmdIn (s : State) (k : FatalKind) : (s.raiseFatal k).cmdIn = s.cmdIn := rfl
@[simp] theorem State.raiseFatal_script (s : State) (k : FatalKind) : (s.raiseFatal k).script = s.script := rfl
@[simp] theorem State.raiseFatal_trace (s : State) (k : FatalKind) : (s.raiseFatal k).trace = s.trace := rfl
@[simp] theorem State.raiseFatal_rsp (s : State) (k : FatalKind) : (s.raiseFatal k).rsp = s.rsp := rfl
@[simp] theorem State.raiseFatal_choiceIx (s : State) (k : FatalKind) : (s.raiseFatal k).choiceIx = s.choiceIx := rfl

/-! ### `takeEvent` -/

@[simp] theorem State.takeEvent_hold (s : State) (e : EventCode) : (s.takeEvent e).hold = s.hold := rfl
@[simp] theorem State.takeEvent_rbCap (s : State) (e : EventCode) : (s.takeEvent e).rbCap = s.rbCap := rfl
@[simp] theorem State.takeEvent_rbHead (s : State) (e : EventCode) : (s.takeEvent e).rbHead = s.rbHead := rfl
@[simp] theorem State.takeEvent_rbTail (s : State) (e : EventCode) : (s.takeEvent e).rbTail = s.rbTail := rfl
@[simp] theorem State.takeEvent_rbCount (s : State) (e : EventCode) : (s.takeEvent e).rbCount = s.rbCount := rfl
@[simp] theorem State.takeEvent_rbMem (s : State) (e : EventCode) : (s.takeEvent e).rbMem = s.rbMem := rfl
@[simp] theorem State.takeEvent_ctr (s : State) (e : EventCode) : (s.takeEvent e).ctr = s.ctr := rfl
@[simp] theorem State.takeEvent_lastCmp (s : State) (e : EventCode) : (s.takeEvent e).lastCmp = s.lastCmp := rfl
@[simp] theorem State.takeEvent_led (s : State) (e : EventCode) : (s.takeEvent e).led = s.led := rfl
@[simp] theorem State.takeEvent_thr (s : State) (e : EventCode) : (s.takeEvent e).thr = s.thr := rfl
@[simp] theorem State.takeEvent_temp (s : State) (e : EventCode) : (s.takeEvent e).temp = s.temp := rfl
@[simp] theorem State.takeEvent_out (s : State) (e : EventCode) : (s.takeEvent e).out = s.out := rfl
@[simp] theorem State.takeEvent_err (s : State) (e : EventCode) : (s.takeEvent e).err = s.err := rfl
@[simp] theorem State.takeEvent_fault (s : State) (e : EventCode) : (s.takeEvent e).fault = s.fault := rfl
@[simp] theorem State.takeEvent_pend (s : State) (e : EventCode) : (s.takeEvent e).pend = s.pend.put false e := rfl
@[simp] theorem State.takeEvent_ctx (s : State) (e : EventCode) : (s.takeEvent e).ctx = .handler := rfl
@[simp] theorem State.takeEvent_task (s : State) (e : EventCode) : (s.takeEvent e).task = s.task := rfl
@[simp] theorem State.takeEvent_cfg (s : State) (e : EventCode) : (s.takeEvent e).cfg = s.cfg := rfl
@[simp] theorem State.takeEvent_env (s : State) (e : EventCode) : (s.takeEvent e).env = s.env := rfl
@[simp] theorem State.takeEvent_cmdIn (s : State) (e : EventCode) : (s.takeEvent e).cmdIn = s.cmdIn := rfl
@[simp] theorem State.takeEvent_script (s : State) (e : EventCode) : (s.takeEvent e).script = s.script := rfl
@[simp] theorem State.takeEvent_trace (s : State) (e : EventCode) : (s.takeEvent e).trace = s.trace := rfl
@[simp] theorem State.takeEvent_rsp (s : State) (e : EventCode) : (s.takeEvent e).rsp = s.rsp := rfl
@[simp] theorem State.takeEvent_choiceIx (s : State) (e : EventCode) : (s.takeEvent e).choiceIx = s.choiceIx := rfl

/-! ### `handlerReturn` -/

@[simp] theorem State.handlerReturn_hold (s : State) : s.handlerReturn.hold = s.hold := rfl
@[simp] theorem State.handlerReturn_rbCap (s : State) : s.handlerReturn.rbCap = s.rbCap := rfl
@[simp] theorem State.handlerReturn_rbHead (s : State) : s.handlerReturn.rbHead = s.rbHead := rfl
@[simp] theorem State.handlerReturn_rbTail (s : State) : s.handlerReturn.rbTail = s.rbTail := rfl
@[simp] theorem State.handlerReturn_rbCount (s : State) : s.handlerReturn.rbCount = s.rbCount := rfl
@[simp] theorem State.handlerReturn_rbMem (s : State) : s.handlerReturn.rbMem = s.rbMem := rfl
@[simp] theorem State.handlerReturn_ctr (s : State) : s.handlerReturn.ctr = s.ctr := rfl
@[simp] theorem State.handlerReturn_lastCmp (s : State) : s.handlerReturn.lastCmp = s.lastCmp := rfl
@[simp] theorem State.handlerReturn_led (s : State) : s.handlerReturn.led = s.led := rfl
@[simp] theorem State.handlerReturn_thr (s : State) : s.handlerReturn.thr = s.thr := rfl
@[simp] theorem State.handlerReturn_temp (s : State) : s.handlerReturn.temp = s.temp := rfl
@[simp] theorem State.handlerReturn_out (s : State) : s.handlerReturn.out = s.out := rfl
@[simp] theorem State.handlerReturn_err (s : State) : s.handlerReturn.err = s.err := rfl
@[simp] theorem State.handlerReturn_fault (s : State) : s.handlerReturn.fault = s.fault := rfl
@[simp] theorem State.handlerReturn_pend (s : State) : s.handlerReturn.pend = s.pend := rfl
@[simp] theorem State.handlerReturn_ctx (s : State) : s.handlerReturn.ctx = .main := rfl
@[simp] theorem State.handlerReturn_task (s : State) : s.handlerReturn.task = s.task := rfl
@[simp] theorem State.handlerReturn_cfg (s : State) : s.handlerReturn.cfg = s.cfg := rfl
@[simp] theorem State.handlerReturn_env (s : State) : s.handlerReturn.env = s.env := rfl
@[simp] theorem State.handlerReturn_cmdIn (s : State) : s.handlerReturn.cmdIn = s.cmdIn := rfl
@[simp] theorem State.handlerReturn_script (s : State) : s.handlerReturn.script = s.script := rfl
@[simp] theorem State.handlerReturn_trace (s : State) : s.handlerReturn.trace = s.trace := rfl
@[simp] theorem State.handlerReturn_rsp (s : State) : s.handlerReturn.rsp = s.rsp := rfl
@[simp] theorem State.handlerReturn_choiceIx (s : State) : s.handlerReturn.choiceIx = s.choiceIx := rfl

/-! ### `badOperand` -/

@[simp] theorem State.badOperand_hold (s : State) : s.badOperand.hold = s.hold := rfl
@[simp] theorem State.badOperand_rbCap (s : State) : s.badOperand.rbCap = s.rbCap := rfl
@[simp] theorem State.badOperand_rbHead (s : State) : s.badOperand.rbHead = s.rbHead := rfl
@[simp] theorem State.badOperand_rbTail (s : State) : s.badOperand.rbTail = s.rbTail := rfl
@[simp] theorem State.badOperand_rbCount (s : State) : s.badOperand.rbCount = s.rbCount := rfl
@[simp] theorem State.badOperand_rbMem (s : State) : s.badOperand.rbMem = s.rbMem := rfl
@[simp] theorem State.badOperand_ctr (s : State) : s.badOperand.ctr = s.ctr := rfl
@[simp] theorem State.badOperand_lastCmp (s : State) : s.badOperand.lastCmp = s.lastCmp := rfl
@[simp] theorem State.badOperand_led (s : State) : s.badOperand.led = s.led := rfl
@[simp] theorem State.badOperand_thr (s : State) : s.badOperand.thr = s.thr := rfl
@[simp] theorem State.badOperand_temp (s : State) : s.badOperand.temp = s.temp := rfl
@[simp] theorem State.badOperand_out (s : State) : s.badOperand.out = s.out := rfl
@[simp] theorem State.badOperand_err (s : State) : s.badOperand.err = s.err.set .badOperand := rfl
@[simp] theorem State.badOperand_fault (s : State) : s.badOperand.fault = s.fault := rfl
@[simp] theorem State.badOperand_pend (s : State) : s.badOperand.pend = s.pend := rfl
@[simp] theorem State.badOperand_ctx (s : State) : s.badOperand.ctx = s.ctx := rfl
@[simp] theorem State.badOperand_task (s : State) : s.badOperand.task = s.task := rfl
@[simp] theorem State.badOperand_cfg (s : State) : s.badOperand.cfg = s.cfg := rfl
@[simp] theorem State.badOperand_env (s : State) : s.badOperand.env = s.env := rfl
@[simp] theorem State.badOperand_cmdIn (s : State) : s.badOperand.cmdIn = s.cmdIn := rfl
@[simp] theorem State.badOperand_script (s : State) : s.badOperand.script = s.script := rfl
@[simp] theorem State.badOperand_trace (s : State) : s.badOperand.trace = s.trace := rfl
@[simp] theorem State.badOperand_rsp (s : State) : s.badOperand.rsp = s.rsp ++ [rspWord .badOperand 0x00#8] := rfl
@[simp] theorem State.badOperand_choiceIx (s : State) : s.badOperand.choiceIx = s.choiceIx := rfl

/-! ### `rbAllocate` -/

@[simp] theorem State.rbAllocate_hold (s : State) (c : Byte) : (s.rbAllocate c).hold = s.hold := rfl
@[simp] theorem State.rbAllocate_rbCap (s : State) (c : Byte) : (s.rbAllocate c).rbCap = c := rfl
@[simp] theorem State.rbAllocate_rbHead (s : State) (c : Byte) : (s.rbAllocate c).rbHead = 0#8 := rfl
@[simp] theorem State.rbAllocate_rbTail (s : State) (c : Byte) : (s.rbAllocate c).rbTail = 0#8 := rfl
@[simp] theorem State.rbAllocate_rbCount (s : State) (c : Byte) : (s.rbAllocate c).rbCount = 0#8 := rfl
@[simp] theorem State.rbAllocate_rbMem (s : State) (c : Byte) : (s.rbAllocate c).rbMem = [] := rfl
@[simp] theorem State.rbAllocate_ctr (s : State) (c : Byte) : (s.rbAllocate c).ctr = s.ctr := rfl
@[simp] theorem State.rbAllocate_lastCmp (s : State) (c : Byte) : (s.rbAllocate c).lastCmp = s.lastCmp := rfl
@[simp] theorem State.rbAllocate_led (s : State) (c : Byte) : (s.rbAllocate c).led = s.led := rfl
@[simp] theorem State.rbAllocate_thr (s : State) (c : Byte) : (s.rbAllocate c).thr = s.thr := rfl
@[simp] theorem State.rbAllocate_temp (s : State) (c : Byte) : (s.rbAllocate c).temp = s.temp := rfl
@[simp] theorem State.rbAllocate_out (s : State) (c : Byte) : (s.rbAllocate c).out = s.out := rfl
@[simp] theorem State.rbAllocate_err (s : State) (c : Byte) : (s.rbAllocate c).err = s.err := rfl
@[simp] theorem State.rbAllocate_fault (s : State) (c : Byte) : (s.rbAllocate c).fault = s.fault := rfl
@[simp] theorem State.rbAllocate_pend (s : State) (c : Byte) : (s.rbAllocate c).pend = s.pend := rfl
@[simp] theorem State.rbAllocate_ctx (s : State) (c : Byte) : (s.rbAllocate c).ctx = s.ctx := rfl
@[simp] theorem State.rbAllocate_task (s : State) (c : Byte) : (s.rbAllocate c).task = s.task := rfl
@[simp] theorem State.rbAllocate_cfg (s : State) (c : Byte) : (s.rbAllocate c).cfg = s.cfg := rfl
@[simp] theorem State.rbAllocate_env (s : State) (c : Byte) : (s.rbAllocate c).env = s.env := rfl
@[simp] theorem State.rbAllocate_cmdIn (s : State) (c : Byte) : (s.rbAllocate c).cmdIn = s.cmdIn := rfl
@[simp] theorem State.rbAllocate_script (s : State) (c : Byte) : (s.rbAllocate c).script = s.script := rfl
@[simp] theorem State.rbAllocate_trace (s : State) (c : Byte) : (s.rbAllocate c).trace = s.trace := rfl
@[simp] theorem State.rbAllocate_rsp (s : State) (c : Byte) : (s.rbAllocate c).rsp = s.rsp := rfl
@[simp] theorem State.rbAllocate_choiceIx (s : State) (c : Byte) : (s.rbAllocate c).choiceIx = s.choiceIx := rfl

/-! ### `driveAcmp` -/

@[simp] theorem State.driveAcmp_hold (s : State) (l : Bool) : (s.driveAcmp l).hold = s.hold := rfl
@[simp] theorem State.driveAcmp_rbCap (s : State) (l : Bool) : (s.driveAcmp l).rbCap = s.rbCap := rfl
@[simp] theorem State.driveAcmp_rbHead (s : State) (l : Bool) : (s.driveAcmp l).rbHead = s.rbHead := rfl
@[simp] theorem State.driveAcmp_rbTail (s : State) (l : Bool) : (s.driveAcmp l).rbTail = s.rbTail := rfl
@[simp] theorem State.driveAcmp_rbCount (s : State) (l : Bool) : (s.driveAcmp l).rbCount = s.rbCount := rfl
@[simp] theorem State.driveAcmp_rbMem (s : State) (l : Bool) : (s.driveAcmp l).rbMem = s.rbMem := rfl
@[simp] theorem State.driveAcmp_ctr (s : State) (l : Bool) : (s.driveAcmp l).ctr = s.ctr := rfl
@[simp] theorem State.driveAcmp_lastCmp (s : State) (l : Bool) : (s.driveAcmp l).lastCmp = s.lastCmp := rfl
@[simp] theorem State.driveAcmp_led (s : State) (l : Bool) : (s.driveAcmp l).led = s.led := rfl
@[simp] theorem State.driveAcmp_thr (s : State) (l : Bool) : (s.driveAcmp l).thr = s.thr := rfl
@[simp] theorem State.driveAcmp_temp (s : State) (l : Bool) : (s.driveAcmp l).temp = s.temp := rfl
@[simp] theorem State.driveAcmp_out (s : State) (l : Bool) : (s.driveAcmp l).out = { s.out with acmpEn := l } := rfl
@[simp] theorem State.driveAcmp_err (s : State) (l : Bool) : (s.driveAcmp l).err = s.err := rfl
@[simp] theorem State.driveAcmp_fault (s : State) (l : Bool) : (s.driveAcmp l).fault = s.fault := rfl
@[simp] theorem State.driveAcmp_pend (s : State) (l : Bool) : (s.driveAcmp l).pend = s.pend := rfl
@[simp] theorem State.driveAcmp_ctx (s : State) (l : Bool) : (s.driveAcmp l).ctx = s.ctx := rfl
@[simp] theorem State.driveAcmp_task (s : State) (l : Bool) : (s.driveAcmp l).task = s.task := rfl
@[simp] theorem State.driveAcmp_cfg (s : State) (l : Bool) : (s.driveAcmp l).cfg = s.cfg := rfl
@[simp] theorem State.driveAcmp_env (s : State) (l : Bool) : (s.driveAcmp l).env = s.env := rfl
@[simp] theorem State.driveAcmp_cmdIn (s : State) (l : Bool) : (s.driveAcmp l).cmdIn = s.cmdIn := rfl
@[simp] theorem State.driveAcmp_script (s : State) (l : Bool) : (s.driveAcmp l).script = s.script := rfl
@[simp] theorem State.driveAcmp_trace (s : State) (l : Bool) : (s.driveAcmp l).trace = s.trace ++ [if l then .acmpEn else .acmpDis] := rfl
@[simp] theorem State.driveAcmp_rsp (s : State) (l : Bool) : (s.driveAcmp l).rsp = s.rsp := rfl
@[simp] theorem State.driveAcmp_choiceIx (s : State) (l : Bool) : (s.driveAcmp l).choiceIx = s.choiceIx := rfl

/-! ### `driveEdgeIrq` -/

@[simp] theorem State.driveEdgeIrq_hold (s : State) (l : Bool) : (s.driveEdgeIrq l).hold = s.hold := rfl
@[simp] theorem State.driveEdgeIrq_rbCap (s : State) (l : Bool) : (s.driveEdgeIrq l).rbCap = s.rbCap := rfl
@[simp] theorem State.driveEdgeIrq_rbHead (s : State) (l : Bool) : (s.driveEdgeIrq l).rbHead = s.rbHead := rfl
@[simp] theorem State.driveEdgeIrq_rbTail (s : State) (l : Bool) : (s.driveEdgeIrq l).rbTail = s.rbTail := rfl
@[simp] theorem State.driveEdgeIrq_rbCount (s : State) (l : Bool) : (s.driveEdgeIrq l).rbCount = s.rbCount := rfl
@[simp] theorem State.driveEdgeIrq_rbMem (s : State) (l : Bool) : (s.driveEdgeIrq l).rbMem = s.rbMem := rfl
@[simp] theorem State.driveEdgeIrq_ctr (s : State) (l : Bool) : (s.driveEdgeIrq l).ctr = s.ctr := rfl
@[simp] theorem State.driveEdgeIrq_lastCmp (s : State) (l : Bool) : (s.driveEdgeIrq l).lastCmp = s.lastCmp := rfl
@[simp] theorem State.driveEdgeIrq_led (s : State) (l : Bool) : (s.driveEdgeIrq l).led = s.led := rfl
@[simp] theorem State.driveEdgeIrq_thr (s : State) (l : Bool) : (s.driveEdgeIrq l).thr = s.thr := rfl
@[simp] theorem State.driveEdgeIrq_temp (s : State) (l : Bool) : (s.driveEdgeIrq l).temp = s.temp := rfl
@[simp] theorem State.driveEdgeIrq_out (s : State) (l : Bool) : (s.driveEdgeIrq l).out = { s.out with edgeIrqEn := l } := rfl
@[simp] theorem State.driveEdgeIrq_err (s : State) (l : Bool) : (s.driveEdgeIrq l).err = s.err := rfl
@[simp] theorem State.driveEdgeIrq_fault (s : State) (l : Bool) : (s.driveEdgeIrq l).fault = s.fault := rfl
@[simp] theorem State.driveEdgeIrq_pend (s : State) (l : Bool) : (s.driveEdgeIrq l).pend = { s.pend with edge := false } := rfl
@[simp] theorem State.driveEdgeIrq_ctx (s : State) (l : Bool) : (s.driveEdgeIrq l).ctx = s.ctx := rfl
@[simp] theorem State.driveEdgeIrq_task (s : State) (l : Bool) : (s.driveEdgeIrq l).task = s.task := rfl
@[simp] theorem State.driveEdgeIrq_cfg (s : State) (l : Bool) : (s.driveEdgeIrq l).cfg = s.cfg := rfl
@[simp] theorem State.driveEdgeIrq_env (s : State) (l : Bool) : (s.driveEdgeIrq l).env = s.env := rfl
@[simp] theorem State.driveEdgeIrq_cmdIn (s : State) (l : Bool) : (s.driveEdgeIrq l).cmdIn = s.cmdIn := rfl
@[simp] theorem State.driveEdgeIrq_script (s : State) (l : Bool) : (s.driveEdgeIrq l).script = s.script := rfl
@[simp] theorem State.driveEdgeIrq_trace (s : State) (l : Bool) : (s.driveEdgeIrq l).trace = s.trace ++ [.edgeIrq l] := rfl
@[simp] theorem State.driveEdgeIrq_rsp (s : State) (l : Bool) : (s.driveEdgeIrq l).rsp = s.rsp := rfl
@[simp] theorem State.driveEdgeIrq_choiceIx (s : State) (l : Bool) : (s.driveEdgeIrq l).choiceIx = s.choiceIx := rfl

/-! ### `drive` -/

@[simp] theorem State.drive_hold (s : State) (p : Pin) (l : Bool) : (s.drive p l).hold = s.hold := rfl
@[simp] theorem State.drive_rbCap (s : State) (p : Pin) (l : Bool) : (s.drive p l).rbCap = s.rbCap := rfl
@[simp] theorem State.drive_rbHead (s : State) (p : Pin) (l : Bool) : (s.drive p l).rbHead = s.rbHead := rfl
@[simp] theorem State.drive_rbTail (s : State) (p : Pin) (l : Bool) : (s.drive p l).rbTail = s.rbTail := rfl
@[simp] theorem State.drive_rbCount (s : State) (p : Pin) (l : Bool) : (s.drive p l).rbCount = s.rbCount := rfl
@[simp] theorem State.drive_rbMem (s : State) (p : Pin) (l : Bool) : (s.drive p l).rbMem = s.rbMem := rfl
@[simp] theorem State.drive_ctr (s : State) (p : Pin) (l : Bool) : (s.drive p l).ctr = s.ctr := rfl
@[simp] theorem State.drive_lastCmp (s : State) (p : Pin) (l : Bool) : (s.drive p l).lastCmp = s.lastCmp := rfl
@[simp] theorem State.drive_led (s : State) (p : Pin) (l : Bool) : (s.drive p l).led = s.led := rfl
@[simp] theorem State.drive_thr (s : State) (p : Pin) (l : Bool) : (s.drive p l).thr = s.thr := rfl
@[simp] theorem State.drive_temp (s : State) (p : Pin) (l : Bool) : (s.drive p l).temp = s.temp := rfl
@[simp] theorem State.drive_err (s : State) (p : Pin) (l : Bool) : (s.drive p l).err = s.err := rfl
@[simp] theorem State.drive_fault (s : State) (p : Pin) (l : Bool) : (s.drive p l).fault = s.fault := rfl
@[simp] theorem State.drive_pend (s : State) (p : Pin) (l : Bool) : (s.drive p l).pend = s.pend := rfl
@[simp] theorem State.drive_ctx (s : State) (p : Pin) (l : Bool) : (s.drive p l).ctx = s.ctx := rfl
@[simp] theorem State.drive_task (s : State) (p : Pin) (l : Bool) : (s.drive p l).task = s.task := rfl
@[simp] theorem State.drive_cfg (s : State) (p : Pin) (l : Bool) : (s.drive p l).cfg = s.cfg := rfl
@[simp] theorem State.drive_env (s : State) (p : Pin) (l : Bool) : (s.drive p l).env = s.env := rfl
@[simp] theorem State.drive_cmdIn (s : State) (p : Pin) (l : Bool) : (s.drive p l).cmdIn = s.cmdIn := rfl
@[simp] theorem State.drive_script (s : State) (p : Pin) (l : Bool) : (s.drive p l).script = s.script := rfl
@[simp] theorem State.drive_trace (s : State) (p : Pin) (l : Bool) : (s.drive p l).trace = s.trace ++ [.gpio p l] := rfl
@[simp] theorem State.drive_rsp (s : State) (p : Pin) (l : Bool) : (s.drive p l).rsp = s.rsp := rfl
@[simp] theorem State.drive_choiceIx (s : State) (p : Pin) (l : Bool) : (s.drive p l).choiceIx = s.choiceIx := rfl

@[simp] theorem State.drive_out_excite (s : State) (l : Bool) : (s.drive .excite l).out = { s.out with excite := l } := rfl
@[simp] theorem State.drive_out_pwrEn (s : State) (l : Bool) : (s.drive .pwrEn l).out = { s.out with pwrEn := l } := rfl
@[simp] theorem State.drive_out_status (s : State) (l : Bool) : (s.drive .status l).out = { s.out with status := l } := rfl

end Sys2Proof.Machine
end

