-- ==== Sys2Proof/Laws/Ops.lean ====
section
/-! SUPPORT. For each shared operation, once, everything it can do: acceptance of commands and events, the arbiter's and the
ring's procedures, the choice among pending events, the run of an exchange. -/

namespace Sys2Proof.Machine

/-! ### Flags -/

@[simp] theorem Pend.get_put_same (p : Pend) (b : Bool) (e : EventCode) : (p.put b e).get e = b := by cases e <;> rfl

theorem Pend.get_put_other (p : Pend) (b : Bool) {e f : EventCode} (h : f ≠ e) : (p.put b e).get f = p.get f := by
  cases e <;> cases f <;> first | rfl | exact absurd rfl h

/-- Something is pending exactly when some source is. -/
theorem Pend.any_iff (p : Pend) : p.any = true ↔ ∃ e, p.get e = true := by
  refine ⟨fun h => ?_, fun ⟨e, h⟩ => ?_⟩
  · obtain ⟨a, b, c, d⟩ := p
    cases a
    · cases b
      · cases c
        · exact ⟨.edge, by simpa [Pend.any, Pend.get] using h⟩
        · exact ⟨.txrdy, rfl⟩
      · exact ⟨.period, rfl⟩
    · exact ⟨.subint, rfl⟩
  · cases e <;> simp_all [Pend.get, Pend.any]

/-- Nothing pending, as a value. -/
theorem Pend.eq_zero_of_not_any {p : Pend} (h : p.any = false) : p = Pend.zero := by
  obtain ⟨a, b, c, d⟩ := p
  simp only [Pend.any, Bool.or_eq_false_iff] at h
  obtain ⟨⟨⟨rfl, rfl⟩, rfl⟩, rfl⟩ := h
  rfl

/-- The listed sources are the pending ones. -/
theorem Pend.mem_events (p : Pend) (e : EventCode) : e ∈ p.events ↔ p.get e = true := by
  cases e <;> simp [Pend.events, allEvents]

/-! ### Acceptance -/

/-- In a ready state a command runs. -/
theorem onCommand_ready {run : State → Out} {s : State} (h : Ready s) : onCommand run s = run s := by
  obtain ⟨h1, h2, h3⟩ := h
  simp [onCommand, h1, h2, h3]

/-- In `FAULTED` a command is refused with its status and nothing else happens. -/
theorem onCommand_faulted {run : State → Out} {s : State} (hc : configOk s.cfg = true) (h : s.ctx = .faulted) :
    onCommand run s = .next (s.respond .faulted 0x00#8) := by
  simp [onCommand, hc, h]

/-- All that acceptance of a command can do. -/
theorem onCommand_cases {run : State → Out} {s : State} (hc : configOk s.cfg = true) :
    (s.ctx = .main ∧ s.task = none ∧ onCommand run s = run s) ∨
    (s.ctx = .faulted ∧ onCommand run s = .next (s.respond .faulted 0x00#8)) ∨
    (s.ctx ≠ .faulted ∧ ¬ (s.ctx = .main ∧ s.task = none) ∧ onCommand run s = .next s) := by
  cases hx : s.ctx <;> cases ht : s.task <;> simp [onCommand, hc, hx, ht]

/-- In a ready state an event is taken and its handler runs. -/
theorem onEvent_ready {e : EventCode} {k : State → Out} {s : State} (h : Ready s) : onEvent e k s = k (s.takeEvent e) := by
  obtain ⟨h1, h2, h3⟩ := h
  simp [onEvent, h1, h2, h3]

/-- All that acceptance of an event can do. -/
theorem onEvent_cases {e : EventCode} {k : State → Out} {s : State} (hc : configOk s.cfg = true) :
    (s.ctx = .main ∧ s.task = none ∧ onEvent e k s = k (s.takeEvent e)) ∨
    (¬ (s.ctx = .main ∧ s.task = none) ∧ onEvent e k s = .next (s.latch e)) := by
  cases hx : s.ctx <;> cases ht : s.task <;> simp [onEvent, hc, hx, ht]

/-- A record that is no configuration is refused, as a command and as an event. -/
theorem onCommand_invalid {run : State → Out} {s : State} (hc : configOk s.cfg = false) :
    onCommand run s = .refused .invalidConfig := by
  simp [onCommand, hc]

theorem onEvent_invalid {e : EventCode} {k : State → Out} {s : State} (hc : configOk s.cfg = false) :
    onEvent e k s = .refused .invalidConfig := by
  simp [onEvent, hc]

/-! ### Each operation in a ready state -/

section Ready
variable {s : State} (h : Ready s)
include h

theorem exec_acq_ready (m : Byte) : exec (.acq m) s = acqRun m s := onCommand_ready h
theorem exec_rel_ready (m : Byte) : exec (.rel m) s = relRun m s := onCommand_ready h
theorem exec_sel_ready : exec .sel s = .next (s.respond .ok (selByte s.selected)) :=
  onCommand_ready (run := selRun) h
theorem exec_enter_ready : exec .enter s = enterRun s := onCommand_ready h
theorem exec_alloc_ready (c : Byte) : exec (.alloc c) s = allocRun c s := onCommand_ready h
theorem exec_enq_ready (b : Byte) : exec (.enq b) s = enqRun b s := onCommand_ready h
theorem exec_deq_ready : exec .deq s = deqRun s := onCommand_ready h
theorem exec_rdreg_ready (a : Byte) : exec (.rdreg a) s = rdregRun a s := onCommand_ready h
theorem exec_wrreg_ready (a v : Byte) : exec (.wrreg a v) s = wrregRun a v s := onCommand_ready h
theorem exec_rdsr_ready (n : Byte) : exec (.rdsr n) s = rdsrRun n s := by
  show execRdsr n s = _
  simp only [execRdsr, h.2.1]
  exact onCommand_ready h
theorem exec_subint_ready : exec .subint s = subintHandler (s.takeEvent .subint) := onEvent_ready h
theorem exec_period_ready : exec .period s = periodHandler (s.takeEvent .period) := onEvent_ready h
theorem exec_txrdy_ready : exec .txrdy s = txrdyHandler (s.takeEvent .txrdy) := onEvent_ready h
theorem exec_edge_ready : exec .edge s = .next ((s.takeEvent .edge).emit .edgeFwd).handlerReturn :=
  onEvent_ready (k := edgeHandler) h

end Ready

/-! ### The arbiter's procedures -/

/-- All that `acquire` can do. -/
theorem acquire_cases (m : Nat) (s : State) :
    (s.holdOf m = holdTop s.cfg ∧ acquire m s = .fatal (s.raiseFatal .holdOverflow)) ∨
    (s.holdOf m ≠ holdTop s.cfg ∧ acquire m s = .ok (s.setHold m (s.holdOf m + 1))) := by
  unfold acquire
  split
  · exact .inl ⟨‹_›, rfl⟩
  · exact .inr ⟨‹_›, rfl⟩

/-- All that `release` can do. -/
theorem release_cases (m : Nat) (s : State) :
    (s.holdOf m = 0 ∧ release m s = .fatal (s.raiseFatal .sleepHoldMismatch)) ∨
    (s.holdOf m ≠ 0 ∧ release m s = .ok (s.setHold m (s.holdOf m - 1))) := by
  unfold release
  split
  · exact .inl ⟨‹_›, rfl⟩
  · exact .inr ⟨‹_›, rfl⟩

/-- An acquire below the top, and a release above zero, as updates of the table. -/
theorem acquire_ok {m : Nat} {s : State} (h : s.holdOf m ≠ holdTop s.cfg) :
    acquire m s = .ok { s with hold := s.hold.set m (s.holdOf m + 1) } := if_neg h

theorem release_ok {m : Nat} {s : State} (h : s.holdOf m ≠ 0) :
    release m s = .ok { s with hold := s.hold.set m (s.holdOf m - 1) } := if_neg h

/-- The counter that was written. -/
theorem State.holdOf_setHold_same {s : State} {m : Nat} (v : Nat) (h : m < s.hold.length) :
    (s.setHold m v).holdOf m = v := by
  simp [State.holdOf, State.setHold, h]

/-- Every other counter is as before. -/
theorem State.holdOf_setHold_other (s : State) {m k : Nat} (v : Nat) (h : k ≠ m) :
    (s.setHold m v).holdOf k = s.holdOf k := by
  simp [State.holdOf, State.setHold, Ne.symm h]

/-! ### The ring's procedures -/

/-- All that `rb_enqueue` can do. -/
theorem rbEnqueue_cases (b : Byte) (s : State) :
    (s.rbCount = s.rbCap ∧ rbEnqueue b s = .full (s.raiseErr .bufFull)) ∨
    (s.rbCount ≠ s.rbCap ∧ cursorOk s s.rbHead = false ∧ rbEnqueue b s = .fault .ringAddress) ∨
    (s.rbCount ≠ s.rbCap ∧ cursorOk s s.rbHead = true ∧ rbEnqueue b s = .stored
      { s with
        rbMem := Memory.write s.rbMem s.rbHead.toNat b
        rbHead := advance s.rbHead s.rbCap
        rbCount := s.rbCount + 1#8 }) := by
  unfold rbEnqueue
  split
  · exact .inl ⟨‹_›, rfl⟩
  · split
    · exact .inr (.inl ⟨‹_›, ‹_›, rfl⟩)
    · exact .inr (.inr ⟨‹_›, by simpa using ‹¬ cursorOk _ _ = false›, rfl⟩)

/-- All that `rb_dequeue` can do. -/
theorem rbDequeue_cases (s : State) :
    (s.rbCount = 0#8 ∧ rbDequeue s = .empty (s.raiseErr .bufEmpty)) ∨
    (s.rbCount ≠ 0#8 ∧ cursorOk s s.rbTail = false ∧ rbDequeue s = .fault .ringAddress) ∨
    (s.rbCount ≠ 0#8 ∧ cursorOk s s.rbTail = true ∧ Memory.read s.rbMem s.rbTail.toNat = none ∧
      rbDequeue s = .fault .ringUnwritten) ∨
    (s.rbCount ≠ 0#8 ∧ cursorOk s s.rbTail = true ∧ ∃ v, Memory.read s.rbMem s.rbTail.toNat = some v ∧
      rbDequeue s = .taken v
        { s with
          rbMem := Memory.erase s.rbMem s.rbTail.toNat
          rbTail := advance s.rbTail s.rbCap
          rbCount := s.rbCount - 1#8 }) := by
  unfold rbDequeue
  split
  · exact .inl ⟨‹_›, rfl⟩
  · rename_i h0
    split
    · exact .inr (.inl ⟨‹_›, ‹_›, rfl⟩)
    · rename_i h1
      have h1 : cursorOk s s.rbTail = true := by simpa using h1
      cases hr : Memory.read s.rbMem s.rbTail.toNat with
      | none => exact .inr (.inr (.inl ⟨h0, h1, rfl, rfl⟩))
      | some v => exact .inr (.inr (.inr ⟨h0, h1, v, rfl, rfl⟩))

/-- The storage keeps its canonical form under an enqueue, a dequeue and an allocation, and has it after reset. -/
theorem rbEnqueue_wf {b : Byte} {s t : State} (hw : Memory.wf s.rbMem = true) (h : rbEnqueue b s = .stored t) :
    Memory.wf t.rbMem = true := by
  rcases rbEnqueue_cases b s with ⟨-, e⟩ | ⟨-, -, e⟩ | ⟨-, -, e⟩ <;> rw [e] at h <;> cases h
  exact Memory.wf_write _ _ hw

theorem rbDequeue_wf {v : Byte} {s t : State} (hw : Memory.wf s.rbMem = true) (h : rbDequeue s = .taken v t) :
    Memory.wf t.rbMem = true := by
  rcases rbDequeue_cases s with ⟨-, e⟩ | ⟨-, -, e⟩ | ⟨-, -, -, e⟩ | ⟨-, -, w, -, e⟩ <;> rw [e] at h <;> cases h
  exact Memory.wf_erase _ hw

theorem rbAllocate_wf (s : State) (c : Byte) : Memory.wf (s.rbAllocate c).rbMem = true := rfl

theorem reset_wf : Memory.wf State.reset.rbMem = true := rfl

/-- A cursor moved on by one, as a number. -/
theorem toNat_advance (c : Byte) {cap : Byte} (h : 0 < cap.toNat) : (advance c cap).toNat = (c.toNat + 1) % cap.toNat := by
  simp only [advance, BitVec.toNat_ofNat]
  exact Nat.mod_eq_of_lt (lt_trans (Nat.mod_lt _ h) cap.isLt)

/-- The queue content, position by position. -/
theorem queueFrom_eq_map (m : Memory) (cap : Nat) (n : Nat) : ∀ tail, tail < cap →
    queueFrom m cap tail n = (List.range n).map fun k => Memory.read m ((tail + k) % cap) := by
  induction n with
  | zero => intros; rfl
  | succ n ih =>
    intro tail h
    have h1 : tail % cap = tail := Nat.mod_eq_of_lt h
    have h2 : ∀ k, ((tail + 1) % cap + k) % cap = (tail + (k + 1)) % cap := fun k => by
      rw [Nat.mod_add_mod, Nat.add_assoc, Nat.add_comm 1 k]
    rw [queueFrom, ih _ (Nat.mod_lt _ (Nat.zero_lt_of_lt h)), List.range_succ_eq_map]
    simp [h1, h2, Function.comp_def]

/-- Two positions of the queue content are at different addresses. -/
theorem ring_position_inj {tail cap i j : Nat} (hi : i < cap) (hj : j < cap) (h : (tail + i) % cap = (tail + j) % cap) :
    i = j := by
  have := (Nat.ModEq.add_left_cancel' tail h : i ≡ j [MOD cap])
  exact (Nat.mod_eq_of_lt hi).symm.trans ((show i % cap = j % cap from this).trans (Nat.mod_eq_of_lt hj))

/-! ### The comparator's steps -/

@[simp] theorem State.hysteresis_hold (s : State) (c : Bool) : (s.hysteresis c).hold = s.hold := by
  unfold State.hysteresis; split <;> rfl
@[simp] theorem State.hysteresis_rbCap (s : State) (c : Bool) : (s.hysteresis c).rbCap = s.rbCap := by
  unfold State.hysteresis; split <;> rfl
@[simp] theorem State.hysteresis_rbHead (s : State) (c : Bool) : (s.hysteresis c).rbHead = s.rbHead := by
  unfold State.hysteresis; split <;> rfl
@[simp] theorem State.hysteresis_rbTail (s : State) (c : Bool) : (s.hysteresis c).rbTail = s.rbTail := by
  unfold State.hysteresis; split <;> rfl
@[simp] theorem State.hysteresis_rbCount (s : State) (c : Bool) : (s.hysteresis c).rbCount = s.rbCount := by
  unfold State.hysteresis; split <;> rfl
@[simp] theorem State.hysteresis_rbMem (s : State) (c : Bool) : (s.hysteresis c).rbMem = s.rbMem := by
  unfold State.hysteresis; split <;> rfl
@[simp] theorem State.hysteresis_ctr (s : State) (c : Bool) : (s.hysteresis c).ctr = s.ctr := by
  unfold State.hysteresis; split <;> rfl
@[simp] theorem State.hysteresis_temp (s : State) (c : Bool) : (s.hysteresis c).temp = s.temp := by
  unfold State.hysteresis; split <;> rfl
@[simp] theorem State.hysteresis_err (s : State) (c : Bool) : (s.hysteresis c).err = s.err := by
  unfold State.hysteresis; split <;> rfl
@[simp] theorem State.hysteresis_fault (s : State) (c : Bool) : (s.hysteresis c).fault = s.fault := by
  unfold State.hysteresis; split <;> rfl
@[simp] theorem State.hysteresis_pend (s : State) (c : Bool) : (s.hysteresis c).pend = s.pend := by
  unfold State.hysteresis; split <;> rfl
@[simp] theorem State.hysteresis_ctx (s : State) (c : Bool) : (s.hysteresis c).ctx = s.ctx := by
  unfold State.hysteresis; split <;> rfl
@[simp] theorem State.hysteresis_task (s : State) (c : Bool) : (s.hysteresis c).task = s.task := by
  unfold State.hysteresis; split <;> rfl
@[simp] theorem State.hysteresis_cfg (s : State) (c : Bool) : (s.hysteresis c).cfg = s.cfg := by
  unfold State.hysteresis; split <;> rfl
@[simp] theorem State.hysteresis_env (s : State) (c : Bool) : (s.hysteresis c).env = s.env := by
  unfold State.hysteresis; split <;> rfl
@[simp] theorem State.hysteresis_cmdIn (s : State) (c : Bool) : (s.hysteresis c).cmdIn = s.cmdIn := by
  unfold State.hysteresis; split <;> rfl
@[simp] theorem State.hysteresis_script (s : State) (c : Bool) : (s.hysteresis c).script = s.script := by
  unfold State.hysteresis; split <;> rfl
@[simp] theorem State.hysteresis_rsp (s : State) (c : Bool) : (s.hysteresis c).rsp = s.rsp := by
  unfold State.hysteresis; split <;> rfl
@[simp] theorem State.hysteresis_choiceIx (s : State) (c : Bool) : (s.hysteresis c).choiceIx = s.choiceIx := by
  unfold State.hysteresis; split <;> rfl
@[simp] theorem State.hysteresis_lastCmp (s : State) (c : Bool) : (s.hysteresis c).lastCmp = c := by
  unfold State.hysteresis; split <;> rfl

/-- An unchanged reading changes nothing. -/
theorem State.hysteresis_same {s : State} {c : Bool} (h : c = s.lastCmp) : s.hysteresis c = s := by
  simp [State.hysteresis, h]

@[simp] theorem State.comparatorOff_hold (s : State) : s.comparatorOff.hold = s.hold := rfl
@[simp] theorem State.comparatorOff_rbCap (s : State) : s.comparatorOff.rbCap = s.rbCap := rfl
@[simp] theorem State.comparatorOff_rbHead (s : State) : s.comparatorOff.rbHead = s.rbHead := rfl
@[simp] theorem State.comparatorOff_rbTail (s : State) : s.comparatorOff.rbTail = s.rbTail := rfl
@[simp] theorem State.comparatorOff_rbCount (s : State) : s.comparatorOff.rbCount = s.rbCount := rfl
@[simp] theorem State.comparatorOff_rbMem (s : State) : s.comparatorOff.rbMem = s.rbMem := rfl
@[simp] theorem State.comparatorOff_ctr (s : State) : s.comparatorOff.ctr = s.ctr := rfl
@[simp] theorem State.comparatorOff_temp (s : State) : s.comparatorOff.temp = s.temp := rfl
@[simp] theorem State.comparatorOff_err (s : State) : s.comparatorOff.err = s.err := rfl
@[simp] theorem State.comparatorOff_fault (s : State) : s.comparatorOff.fault = s.fault := rfl
@[simp] theorem State.comparatorOff_pend (s : State) : s.comparatorOff.pend = s.pend := rfl
@[simp] theorem State.comparatorOff_ctx (s : State) : s.comparatorOff.ctx = s.ctx := rfl
@[simp] theorem State.comparatorOff_task (s : State) : s.comparatorOff.task = s.task := rfl
@[simp] theorem State.comparatorOff_cfg (s : State) : s.comparatorOff.cfg = s.cfg := rfl
@[simp] theorem State.comparatorOff_env (s : State) : s.comparatorOff.env = s.env := rfl
@[simp] theorem State.comparatorOff_cmdIn (s : State) : s.comparatorOff.cmdIn = s.cmdIn := rfl
@[simp] theorem State.comparatorOff_script (s : State) : s.comparatorOff.script = s.script := rfl
@[simp] theorem State.comparatorOff_rsp (s : State) : s.comparatorOff.rsp = s.rsp := rfl
@[simp] theorem State.comparatorOff_choiceIx (s : State) : s.comparatorOff.choiceIx = s.choiceIx := rfl
@[simp] theorem State.comparatorOff_lastCmp (s : State) : s.comparatorOff.lastCmp = s.lastCmp := rfl
@[simp] theorem State.comparatorOff_led (s : State) : s.comparatorOff.led = s.led := rfl
@[simp] theorem State.comparatorOff_thr (s : State) : s.comparatorOff.thr = s.thr := rfl
@[simp] theorem State.comparatorOff_out (s : State) :
    s.comparatorOff.out = { s.out with acmpEn := false, excite := false } := rfl
@[simp] theorem State.comparatorOff_trace (s : State) :
    s.comparatorOff.trace = s.trace ++ [.acmpDis] ++ [.gpio .excite false] := rfl

/-! ### The status registers -/

/-- The listed numbers beyond the hold counters, one by one. -/
theorem srListed_fixed : ∀ n : Byte,
    ((0x10 ≤ n.toNat ∧ n.toNat ≤ 0x13) ∨ (0x20 ≤ n.toNat ∧ n.toNat ≤ 0x25) ∨ (0x30 ≤ n.toNat ∧ n.toNat ≤ 0x34)) ↔
      n ∈ [0x10#8, 0x11#8, 0x12#8, 0x13#8, 0x20#8, 0x21#8, 0x22#8, 0x23#8, 0x24#8, 0x25#8,
        0x30#8, 0x31#8, 0x32#8, 0x33#8, 0x34#8] := by
  decide

/-- A status register has a value exactly when its number is listed. -/
theorem readSr_isSome (s : State) (n : Byte) : (readSr s n).isSome = srListed s.cfg n := by
  have h := srListed_fixed n
  by_cases hm : n.toNat < s.cfg.nmodes
  · simp [readSr, srListed, hm]
  · rw [Bool.eq_iff_iff]
    simp only [srListed, Bool.or_eq_true, Bool.and_eq_true, decide_eq_true_eq, hm, false_or, or_assoc, h]
    clear h
    constructor
    · intro hs
      by_contra hl
      simp only [List.mem_cons, List.not_mem_nil, or_false, not_or] at hl
      simp [readSr, hm, hl] at hs
    · intro hl
      simp only [List.mem_cons, List.not_mem_nil, or_false] at hl
      rcases hl with rfl | rfl | rfl | rfl | rfl | rfl | rfl | rfl | rfl | rfl | rfl | rfl | rfl | rfl | rfl <;>
        · rw [readSr, if_neg hm]; rfl

theorem readSr_eq_none {s : State} {n : Byte} : readSr s n = none ↔ srListed s.cfg n = false := by
  rw [← readSr_isSome s n]; cases readSr s n <;> simp

/-- With an unlisted number `RDSR` is accepted like any command. -/
theorem execRdsr_unlisted {s : State} {n : Byte} (h : srListed s.cfg n = false) :
    execRdsr n s = onCommand (rdsrRun n) s := by
  simp only [execRdsr, readSr_eq_none.mpr h]
  split <;> first | rfl | simp_all

/-- In `FAULTED` a listed register is still read. -/
theorem execRdsr_faulted {s : State} {n v : Byte} (hc : configOk s.cfg = true) (hx : s.ctx = .faulted)
    (h : readSr s n = some v) : execRdsr n s = .next (s.respond .ok v) := by
  simp [execRdsr, hc, hx, h]

/-! ### The run of an exchange -/

@[simp] theorem busRun_nil (v : Byte) (s : State) : busRun [] v s = .done v s := rfl

@[simp] theorem busRun_send (sym : BusSym) (rest : List BusStep) (v : Byte) (s : State) :
    busRun (.send sym :: rest) v s = busRun rest v (s.emit (.bus sym)) := rfl

theorem busRun_ack_true {rest : List BusStep} {v : Byte} {s : State} {more : List Bool} (h : s.env.busAck = true :: more) :
    busRun (.ack :: rest) v s = busRun rest v (s.setEnv { s.env with busAck := more }) := by
  simp [busRun, h]

theorem busRun_ack_false {rest : List BusStep} {v : Byte} {s : State} {more : List Bool}
    (h : s.env.busAck = false :: more) :
    busRun (.ack :: rest) v s = .timeout (s.setEnv { s.env with busAck := more }).abandon := by
  simp [busRun, h]

theorem busRun_ack_waits {rest : List BusStep} {v : Byte} {s : State} (h : s.env.busAck = []) :
    busRun (.ack :: rest) v s = .waiting (.ack :: rest) s := by
  simp [busRun, h]

theorem busRun_rx_some {rest : List BusStep} {v w : Byte} {s : State} {more : List (Option Byte)}
    (h : s.env.busRx = some w :: more) :
    busRun (.rx :: rest) v s = busRun rest w (s.setEnv { s.env with busRx := more }) := by
  simp [busRun, h]

theorem busRun_rx_none {rest : List BusStep} {v : Byte} {s : State} {more : List (Option Byte)}
    (h : s.env.busRx = none :: more) :
    busRun (.rx :: rest) v s = .timeout (s.setEnv { s.env with busRx := more }).abandon := by
  simp [busRun, h]

theorem busRun_rx_waits {rest : List BusStep} {v : Byte} {s : State} (h : s.env.busRx = []) :
    busRun (.rx :: rest) v s = .waiting (.rx :: rest) s := by
  simp [busRun, h]

/-- The state a run of an exchange ends in. -/
def BusEnd.state : BusEnd → State
  | .done _ s => s
  | .timeout s => s
  | .waiting _ s => s

/-- What emitting, consuming bus answers and raising the timeout keep, every run of an exchange keeps. -/
theorem busRun_keeps (P : State → Prop) (emit : ∀ s a, P s → P (s.emit a))
    (acks : ∀ s l, P s → P (s.setEnv { s.env with busAck := l })) (bytes : ∀ s l, P s → P (s.setEnv { s.env with busRx := l }))
    (raise : ∀ s, P s → P (s.raiseErr .protoTimeout)) :
    ∀ (f : List BusStep) (v : Byte) (s : State), P s → P (busRun f v s).state := by
  have abandon : ∀ s, P s → P s.abandon := fun s h => by
    unfold State.abandon
    split
    · exact raise _ (emit _ _ h)
    · exact raise _ h
  intro f
  induction f with
  | nil => exact fun _ _ h => h
  | cons x f ih =>
    intro v s h
    cases x with
    | send sym => exact ih v _ (emit _ _ h)
    | ack =>
      cases hb : s.env.busAck with
      | nil => rw [busRun_ack_waits hb]; exact h
      | cons b more =>
        cases b with
        | true => rw [busRun_ack_true hb]; exact ih v _ (acks _ _ h)
        | false => rw [busRun_ack_false hb]; exact abandon _ (acks _ _ h)
    | rx =>
      cases hb : s.env.busRx with
      | nil => rw [busRun_rx_waits hb]; exact h
      | cons b more =>
        cases b with
        | some w => rw [busRun_rx_some hb]; exact ih w _ (bytes _ _ h)
        | none => rw [busRun_rx_none hb]; exact abandon _ (bytes _ _ h)

/-! ### The choice among pending events -/

/-- With nothing pending there is no choice. -/
theorem pickEvent_zero {s : State} (h : s.pend = Pend.zero) : pickEvent s = none := by
  have : s.pend.events = [] := by rw [h]; rfl
  simp [pickEvent, this]

/-- The free choice among what is pending gives something that is pending. -/
theorem freeChoice_pending {f e : EventCode} {p : Pend} (h : freeChoice f p = some e) : p.get e = true := by
  simpa using List.find?_some h

/-- What is chosen is pending, and only the count of choices can change. -/
theorem pickEvent_pending {s t : State} {e : EventCode} (h : pickEvent s = some (e, t)) :
    s.pend.get e = true ∧ ∃ n, t = { s with choiceIx := n } := by
  unfold pickEvent at h
  split at h
  · cases h
  · rename_i he
    cases h
    exact ⟨(Pend.mem_events _ _).mp (by simp [he]), _, rfl⟩
  · split at h
    · rename_i ho
      cases h
      refine ⟨?_, _, rfl⟩
      split at ho
      · simpa using List.find?_some ho
      · cases ho
    · split at h
      · rename_i hf
        cases h
        exact ⟨freeChoice_pending hf, _, rfl⟩
      · cases h

end Sys2Proof.Machine
end

