-- ==== Sys2Proof/Laws/Keeps.lean ====
section
/-! SUPPORT. One principle for frames and invariants: a predicate that every single update of the state keeps is kept by every
operation, from the first action to the last or to the wait it stays at. -/

namespace Sys2Proof.Machine

/-- A predicate that every single update of the state keeps. -/
structure Closed (P : State → Prop) : Prop where
  emit : ∀ s a, P s → P (s.emit a)
  respond : ∀ s a b, P s → P (s.respond a b)
  err : ∀ s k, P s → P (s.raiseErr k)
  fatal : ∀ s k, P s → P (s.raiseFatal k)
  hold : ∀ s m v, P s → P (s.setHold m v)
  out : ∀ s o, P s → P (s.setOut o)
  pend : ∀ s o, P s → P (s.setPend o)
  ctx : ∀ s o, P s → P (s.setCtx o)
  task : ∀ s o, P s → P (s.setTask o)
  env : ∀ s o, P s → P (s.setEnv o)
  ctr : ∀ s o, P s → P (s.setCtr o)
  temp : ∀ s o, P s → P (s.setTemp o)
  ring : ∀ s a b c d e, P s → P { s with rbCap := a, rbHead := b, rbTail := c, rbCount := d, rbMem := e }
  thr : ∀ s o, P s → P { s with thr := o }
  led : ∀ s o, P s → P { s with led := o }
  cmp : ∀ s o, P s → P { s with lastCmp := o }

variable {P : State → Prop} (c : Closed P)

/-- A next state has the predicate. -/
def Keeps (P : State → Prop) (o : Out) : Prop := ∀ t, o = .next t → P t
include c

omit c in
theorem keeps_next {s} (h : P s) : Keeps P (.next s) := fun t e => by cases e; exact h

theorem busRun_kept (f v) {s} (h : P s) : P (busRun f v s).state := busRun_keeps P c.emit (fun _ _ h => c.env _ _ h) (fun _ _ h => c.env _ _ h) (fun _ h => c.err _ _ h) f v s h

theorem drive_kept {s} (h : P s) (p b) : P (s.drive p b) := c.out _ _ (c.emit _ _ h)

theorem driveAcmp_kept {s} (h : P s) (b) : P (s.driveAcmp b) := c.out _ _ (c.emit _ _ h)

theorem driveEdgeIrq_kept {s} (h : P s) (b) : P (s.driveEdgeIrq b) := c.pend _ _ (c.out _ _ (c.emit _ _ h))

theorem acquire_keeps {s} {k : State → Out} {m} (h : P s) (hk : ∀ s, P s → Keeps P (k s)) : Keeps P (afterHold k (acquire m s)) := by
  rcases acquire_cases m s with ⟨_, e⟩ | ⟨_, e⟩ <;> rw [e]
  · exact keeps_next (c.fatal _ _ h)
  · exact hk _ (c.hold _ _ _ h)

theorem release_keeps {s} {k : State → Out} {m} (h : P s) (hk : ∀ s, P s → Keeps P (k s)) : Keeps P (afterHold k (release m s)) := by
  rcases release_cases m s with ⟨_, e⟩ | ⟨_, e⟩ <;> rw [e]
  · exact keeps_next (c.fatal _ _ h)
  · exact hk _ (c.hold _ _ _ h)

theorem rbEnqueue_keeps {s b} (h : P s) : (∀ t, rbEnqueue b s = .stored t → P t) ∧ (∀ t, rbEnqueue b s = .full t → P t) := by
  rcases rbEnqueue_cases b s with ⟨-, e⟩ | ⟨-, -, e⟩ | ⟨-, -, e⟩ <;> rw [e] <;> simp
  · exact c.err _ _ h
  · exact c.ring _ _ _ _ _ _ h

theorem rbDequeue_keeps {s} (h : P s) : (∀ v t, rbDequeue s = .taken v t → P t) ∧ (∀ t, rbDequeue s = .empty t → P t) := by
  rcases rbDequeue_cases s with ⟨-, e⟩ | ⟨-, -, e⟩ | ⟨-, -, -, e⟩ | ⟨-, -, v, -, e⟩ <;> rw [e] <;> simp
  · exact c.err _ _ h
  · exact c.ring _ _ _ _ _ _ h

theorem enqueueAll_keeps : ∀ (bs : List Byte) (s), P s → (∀ t, enqueueAll bs s = .stored t → P t) ∧ (∀ t, enqueueAll bs s = .full t → P t) := by
  intro bs
  induction bs with
  | nil => intro s h; simp [enqueueAll]; exact h
  | cons b bs ih =>
    intro s h
    unfold enqueueAll
    split
    · exact ih _ ((rbEnqueue_keeps c h).1 _ ‹_›)
    · rename_i e; simp; exact (rbEnqueue_keeps c h).2 _ e
    · simp

theorem sendNext_keeps {s} (h : P s) : Keeps P (sendNext s) := by
  unfold sendNext
  split
  · exact keeps_next (c.ctx _ _ (c.emit _ _ ((rbDequeue_keeps c h).1 _ _ ‹_›)))
  · exact keeps_next (c.ctx _ _ ((rbDequeue_keeps c h).2 _ ‹_›))
  · intro t e; cases e

theorem handOff_keeps {s} (h : P s) : Keeps P (handOff s) := by
  unfold handOff
  have := enqueueAll_keeps c (burst s) (s.rbAllocate (BitVec.ofNat 8 s.cfg.rbCap)) (c.ring s _ _ _ _ _ h)
  split
  · exact acquire_keeps c (this.1 _ ‹_›) (fun s h => sendNext_keeps c h)
  · exact keeps_next (c.ctx _ _ (this.2 _ ‹_›))
  · intro t e; cases e

theorem hysteresis_kept {s} (h : P s) (b) : P (s.hysteresis b) := by
  unfold State.hysteresis
  split
  · exact c.cmp _ _ h
  · exact c.cmp _ _ (drive_kept c (c.led _ _ (c.emit _ _ (c.thr _ _ h))) _ _)

theorem readComparator_keeps {s} (h : P s) : Keeps P (readComparator s) := by
  unfold readComparator
  split
  · exact keeps_next (c.task _ _ h)
  · exact handOff_keeps c (hysteresis_kept c (drive_kept c (driveAcmp_kept c (c.env _ _ h) _) _ _) _)
/-- The state a conversion ends in has it. -/
def SampleKeeps (P : State → Prop) : Sample → Prop
  | .code _ s => P s
  | .notDone s => P s
  | .noResult s => P s
  | .tooWide => True

theorem adcRead_keeps {s} (h : P s) : SampleKeeps P (adcRead s) := by
  unfold adcRead
  split
  · exact h
  · split
    · exact c.env _ _ h
    · trivial

theorem adcWait_keeps {s} (h : P s) : SampleKeeps P (adcWait s) := by
  unfold adcWait
  split
  · exact c.env _ _ h
  · exact adcRead_keeps c (c.env _ _ h)
/-- The state the conversion loop ends in has it. -/
def AdcKeeps (P : State → Prop) : AdcEnd → Prop
  | .sum _ s => P s
  | .waiting _ s => P s
  | .tooWide => True

theorem adcLoop_keeps : ∀ n tot s, P s → AdcKeeps P (adcLoop n tot s) := by
  intro n
  induction n with
  | zero => intro tot s h; exact h
  | succ n ih =>
    intro tot s h
    have := adcWait_keeps c (c.emit _ .adcStart h)
    unfold adcLoop
    split <;> rename_i e <;> rw [e] at this
    · exact ih _ _ this
    · exact this
    · exact this
    · trivial

theorem adcResume_keeps {m tot r} (h : SampleKeeps P r) : AdcKeeps P (adcResume m tot r) := by
  cases r with
  | code k s => exact adcLoop_keeps c _ _ _ h
  | notDone s => exact h
  | noResult s => exact h
  | tooWide => trivial

theorem adcEnd_keeps {r} (h : AdcKeeps P r) : Keeps P (adcEnd r) := by
  cases r with
  | sum tot s =>
    show Keeps P (storeTemp tot s)
    unfold storeTemp
    split
    · intro t e; cases e
    · exact release_keeps c (c.temp _ _ h) (fun s h => readComparator_keeps c h)
  | waiting t s => exact keeps_next (c.task _ _ h)
  | tooWide => intro t e; cases e

theorem sampleTemp_keeps {s} (h : P s) : Keeps P (sampleTemp s) := acquire_keeps c h (fun _ h => adcEnd_keeps c (adcLoop_keeps c _ _ _ h))
/-- The state the configuration writes end in has it. -/
def WritesKeep (P : State → Prop) : WritesEnd → Prop
  | .done s => P s
  | .waiting _ s => P s

theorem configWrites_keeps : ∀ ws s, P s → WritesKeep P (configWrites ws s) := by
  intro ws
  induction ws with
  | nil => intro s h; exact h
  | cons w ws ih =>
    intro s h
    have := busRun_kept c (writeFrame s.cfg w.1 w.2) 0#8 h
    unfold configWrites
    split <;> rename_i e <;> rw [e] at this
    · exact ih _ this
    · exact this
    · exact this

theorem configResume_keeps {rest b} (h : P b.state) : WritesKeep P (configResume rest b) := by
  cases b with
  | done v s => exact configWrites_keeps c _ _ h
  | timeout s => exact h
  | waiting l s => exact h

theorem powerUpEnd_keeps {w} (h : WritesKeep P w) : Keeps P (powerUpEnd w) := by
  cases w with
  | done s => exact sampleTemp_keeps c (driveEdgeIrq_kept c h _)
  | waiting t s => exact keeps_next (c.task _ _ h)

theorem tearDownEnd_keeps {b} (h : P b.state) : Keeps P (tearDownEnd b) := by
  cases b with
  | done v s => exact release_keeps c (drive_kept c h _ _) (fun s h => sampleTemp_keeps c h)
  | timeout s => exact release_keeps c (drive_kept c h _ _) (fun s h => sampleTemp_keeps c h)
  | waiting l s => exact keeps_next (c.task _ _ h)

theorem periodHandler_keeps {s} (h : P s) : Keeps P (periodHandler s) := by
  unfold periodHandler
  split
  · exact acquire_keeps c (c.ctr _ _ h) (fun s h => powerUpEnd_keeps c (configWrites_keeps c _ _ (c.emit _ _ (drive_kept c h _ _))))
  · exact sampleTemp_keeps c (c.ctr _ _ h)
  · exact tearDownEnd_keeps c (busRun_kept c _ _ (driveEdgeIrq_kept c (c.ctr _ _ h) _))

theorem warmWait_keeps {s} (h : P s) : Keeps P (warmWait s) := by
  unfold warmWait
  split
  · exact keeps_next (c.task _ _ (c.env _ _ h))
  · exact keeps_next (c.ctx _ _ (c.env _ _ h))

theorem readEnd_keeps {b} (h : P b.state) : Keeps P (readEnd b) := by
  cases b with
  | done v s => exact keeps_next (c.respond _ _ _ h)
  | timeout s => exact keeps_next (c.respond _ _ _ h)
  | waiting l s => exact keeps_next (c.task _ _ h)

theorem writeEnd_keeps {b} (h : P b.state) : Keeps P (writeEnd b) := by
  cases b with
  | done v s => exact keeps_next (c.respond _ _ _ h)
  | timeout s => exact keeps_next (c.respond _ _ _ h)
  | waiting l s => exact keeps_next (c.task _ _ h)

theorem onCommand_keeps {run : State → Out} {s} (h : P s) (hk : Keeps P (run s)) : Keeps P (onCommand run s) := by
  cases hc : configOk s.cfg with
  | false => rw [onCommand_invalid hc]; intro t e; cases e
  | true => rcases onCommand_cases (run := run) hc with ⟨_, _, e⟩ | ⟨_, e⟩ | ⟨_, _, e⟩ <;> rw [e]
            · exact hk
            · exact keeps_next (c.respond _ _ _ h)
            · exact keeps_next h

theorem onEvent_keeps {e} {k : State → Out} {s} (h : P s) (hk : ∀ s, P s → Keeps P (k s)) : Keeps P (onEvent e k s) := by
  cases hc : configOk s.cfg with
  | false => rw [onEvent_invalid hc]; intro t e; cases e
  | true => rcases onEvent_cases (e := e) (k := k) hc with ⟨_, _, e⟩ | ⟨_, e⟩ <;> rw [e]
            · exact hk _ (c.ctx _ _ (c.pend _ _ h))
            · unfold State.latch; split
              · exact keeps_next h
              · exact keeps_next (c.pend _ _ h)
/-- What every single update keeps, every operation keeps. -/
theorem exec_keeps (i : Instr) {s} (h : P s) : Keeps P (exec i s) := by
  cases i with
  | acq m =>
    refine onCommand_keeps c h ?_
    unfold acqRun
    split
    · exact keeps_next (c.respond _ _ _ (c.err _ _ h))
    · rcases acquire_cases m.toNat s with ⟨_, e⟩ | ⟨_, e⟩ <;> rw [e]
      · exact keeps_next (c.respond _ _ _ (c.fatal _ _ h))
      · exact keeps_next (c.respond _ _ _ (c.hold _ _ _ h))
  | rel m =>
    refine onCommand_keeps c h ?_
    unfold relRun
    split
    · exact keeps_next (c.respond _ _ _ (c.err _ _ h))
    · rcases release_cases m.toNat s with ⟨_, e⟩ | ⟨_, e⟩ <;> rw [e]
      · exact keeps_next (c.respond _ _ _ (c.fatal _ _ h))
      · exact keeps_next (c.respond _ _ _ (c.hold _ _ _ h))
  | sel => exact onCommand_keeps c h (keeps_next (c.respond _ _ _ h))
  | enter =>
    refine onCommand_keeps c h ?_
    unfold enterRun
    split
    · exact keeps_next (c.respond _ _ _ (c.emit _ _ h))
    · dsimp only; split
      · exact keeps_next (c.respond _ _ _ (c.ctx _ _ (c.emit _ _ (c.ctx _ _ (c.emit _ _ h)))))
      · exact keeps_next (c.ctx _ _ (c.emit _ _ h))
  | alloc b =>
    refine onCommand_keeps c h ?_
    unfold allocRun
    split
    · exact keeps_next (c.respond _ _ _ (c.err _ _ h))
    · exact keeps_next (c.respond _ _ _ (c.ring _ _ _ _ _ _ h))
  | enq b =>
    refine onCommand_keeps c h ?_
    unfold enqRun
    split
    · exact keeps_next (c.respond _ _ _ ((rbEnqueue_keeps c h).1 _ ‹_›))
    · exact keeps_next (c.respond _ _ _ ((rbEnqueue_keeps c h).2 _ ‹_›))
    · intro t e; cases e
  | deq =>
    refine onCommand_keeps c h ?_
    unfold deqRun
    split
    · exact keeps_next (c.respond _ _ _ ((rbDequeue_keeps c h).1 _ _ ‹_›))
    · exact keeps_next (c.respond _ _ _ ((rbDequeue_keeps c h).2 _ ‹_›))
    · intro t e; cases e
  | rdreg a => exact onCommand_keeps c h (readEnd_keeps c (busRun_kept c _ _ h))
  | wrreg a v => exact onCommand_keeps c h (writeEnd_keeps c (busRun_kept c _ _ h))
  | rdsr n =>
    show Keeps P (execRdsr n s)
    have hr : Keeps P (rdsrRun n s) := by
      unfold rdsrRun
      split
      · exact keeps_next (c.respond _ _ _ (c.err _ _ h))
      · exact keeps_next (c.respond _ _ _ h)
    unfold execRdsr
    split
    · split
      · intro t e; cases e
      · exact keeps_next (c.respond _ _ _ h)
    · exact onCommand_keeps c h hr
  | subint => exact onEvent_keeps c h (fun s h => warmWait_keeps c (drive_kept c (driveAcmp_kept c h _) _ _))
  | period => exact onEvent_keeps c h (fun s h => periodHandler_keeps c h)
  | txrdy =>
    refine onEvent_keeps c h (fun s h => ?_)
    unfold txrdyHandler
    split
    · exact release_keeps c h (fun s h => keeps_next (c.ctx _ _ h))
    · exact sendNext_keeps c h
  | edge => exact onEvent_keeps c h (fun s h => keeps_next (c.ctx _ _ (c.emit _ _ h)))

/-- What every single update keeps, going on with an operation keeps. -/
theorem resume_keeps (t : Task) {s} (h : P s) : Keeps P (resume t s) := by
  have h0 : P (s.setTask none) := c.task _ _ h
  unfold resume
  split
  · intro t e; cases e
  · cases t with
    | readReg left => exact readEnd_keeps c (busRun_kept c _ _ h0)
    | writeReg left => exact writeEnd_keeps c (busRun_kept c _ _ h0)
    | subintWarm => exact warmWait_keeps c h0
    | powerUp left rest => exact powerUpEnd_keeps c (configResume_keeps c (busRun_kept c _ _ h0))
    | tearDown left => exact tearDownEnd_keeps c (busRun_kept c _ _ h0)
    | adcDone more total => exact adcEnd_keeps c (adcResume_keeps c (adcWait_keeps c h0))
    | adcResult more total => exact adcEnd_keeps c (adcResume_keeps c (adcRead_keeps c h0))
    | acmpOut => exact readComparator_keeps c h0

/-- What every single update and taking a word off the port keep, serving the command port keeps. -/
theorem serveCommand_keeps (hw : ∀ s l, P s → P { s with cmdIn := l }) {s} (h : P s) : Keeps P (serveCommand s) := by
  unfold serveCommand
  split
  · exact keeps_next h
  · split
    · exact exec_keeps c _ (hw _ _ h)
    · exact onCommand_keeps c (hw _ _ h) (keeps_next (c.respond _ _ _ (c.err _ _ (hw _ _ h))))

/-- What every single update, taking a word off the port and counting a choice keep, one act of the block keeps. -/
theorem serve_keeps (hw : ∀ s l, P s → P { s with cmdIn := l }) (hn : ∀ s n, P s → P { s with choiceIx := n }) {s}
    (h : P s) : Keeps P (serve s) := by
  unfold serve
  split
  · exact serveCommand_keeps c hw h
  · split
    · exact keeps_next (c.respond _ _ _ (c.emit _ _ (c.ctx _ _ h)))
    · exact keeps_next h
  · exact keeps_next (c.ctx _ _ h)
  · exact resume_keeps c _ h
  · exact resume_keeps c _ h
  · split
    · rename_i hp
      obtain ⟨-, n, rfl⟩ := pickEvent_pending hp
      exact exec_keeps c _ (hn _ _ h)
    · exact serveCommand_keeps c hw h

end Sys2Proof.Machine
end

