-- ==== Sys2Proof/Laws/PerInstr.lean ====
section
/-! SUPPORT. A statement about every operation as syntax: its encoding fits its row of spec/opcode_table.json. -/

namespace Sys2Proof.Laws

/-- The `match` and `mask` values of the operation's row of the table. -/
def tableRow : Instr → Nat × Nat
  | .acq _ => (0x10000000, 0xFF00FFFF)
  | .rel _ => (0x11000000, 0xFF00FFFF)
  | .sel => (0x12000000, 0xFFFFFFFF)
  | .enter => (0x13000000, 0xFFFFFFFF)
  | .alloc _ => (0x20000000, 0xFF00FFFF)
  | .enq _ => (0x21000000, 0xFF00FFFF)
  | .deq => (0x22000000, 0xFFFFFFFF)
  | .rdreg _ => (0x30000000, 0xFF00FFFF)
  | .wrreg _ _ => (0x31000000, 0xFF0000FF)
  | .rdsr _ => (0x40000000, 0xFF00FFFF)
  | .subint => (0x0, 0x3)
  | .period => (0x1, 0x3)
  | .txrdy => (0x2, 0x3)
  | .edge => (0x3, 0x3)

/-- The bits that cross the port, as a number. -/
def portBits : PortWord → Nat
  | .cmd w => w.toNat
  | .evt c => c.toNat

/-- The encoding has the fixed bits of its row. -/
def MatchesRow.Statement (i : Instr) : Prop := portBits (encode i) &&& (tableRow i).2 = (tableRow i).1

/-- The fixed bits of a command word with no operand. -/
theorem fixed_bits_none (op : Opcode) : cmdWord op 0#8 0#8 &&& 0xFFFFFFFF#32 = op.byte ++ 0x000000#24 := by
  cases op <;> rfl

/-- The fixed bits of a command word with one operand. -/
theorem fixed_bits_one (op : Opcode) (a : Byte) : cmdWord op a 0#8 &&& 0xFF00FFFF#32 = op.byte ++ 0x000000#24 := by
  cases op <;> revert a <;> decide

/-- The fixed bits of a command word with two operands. -/
theorem fixed_bits_two (op : Opcode) (a v : Byte) : cmdWord op a v &&& 0xFF0000FF#32 = op.byte ++ 0x000000#24 := by
  show ((op.byte ++ a ++ v ++ 0x00#8 : CmdWord) &&& (0xFF#8 ++ 0x00#8 ++ 0x00#8 ++ 0xFF#8 : CmdWord)) = _
  rw [BitVec.and_append, BitVec.and_append, BitVec.and_append]
  simp only [BitVec.and_zero]
  cases op <;> rfl

theorem MatchesRow.acq (m : Byte) : MatchesRow.Statement (.acq m) := by
  simpa [MatchesRow.Statement, encode, portBits, tableRow, Opcode.byte] using congrArg BitVec.toNat (fixed_bits_one .acq m)
theorem MatchesRow.rel (m : Byte) : MatchesRow.Statement (.rel m) := by
  simpa [MatchesRow.Statement, encode, portBits, tableRow, Opcode.byte] using congrArg BitVec.toNat (fixed_bits_one .rel m)
theorem MatchesRow.sel : MatchesRow.Statement .sel := by
  simpa [MatchesRow.Statement, encode, portBits, tableRow, Opcode.byte] using congrArg BitVec.toNat (fixed_bits_none .sel)
theorem MatchesRow.enter : MatchesRow.Statement .enter := by
  simpa [MatchesRow.Statement, encode, portBits, tableRow, Opcode.byte] using congrArg BitVec.toNat (fixed_bits_none .enter)
theorem MatchesRow.alloc (c : Byte) : MatchesRow.Statement (.alloc c) := by
  simpa [MatchesRow.Statement, encode, portBits, tableRow, Opcode.byte] using congrArg BitVec.toNat (fixed_bits_one .alloc c)
theorem MatchesRow.enq (b : Byte) : MatchesRow.Statement (.enq b) := by
  simpa [MatchesRow.Statement, encode, portBits, tableRow, Opcode.byte] using congrArg BitVec.toNat (fixed_bits_one .enq b)
theorem MatchesRow.deq : MatchesRow.Statement .deq := by
  simpa [MatchesRow.Statement, encode, portBits, tableRow, Opcode.byte] using congrArg BitVec.toNat (fixed_bits_none .deq)
theorem MatchesRow.rdreg (a : Byte) : MatchesRow.Statement (.rdreg a) := by
  simpa [MatchesRow.Statement, encode, portBits, tableRow, Opcode.byte] using congrArg BitVec.toNat (fixed_bits_one .rdreg a)
theorem MatchesRow.wrreg (a : Byte) (v : Byte) : MatchesRow.Statement (.wrreg a v) := by
  simpa [MatchesRow.Statement, encode, portBits, tableRow, Opcode.byte] using congrArg BitVec.toNat (fixed_bits_two .wrreg a v)
theorem MatchesRow.rdsr (n : Byte) : MatchesRow.Statement (.rdsr n) := by
  simpa [MatchesRow.Statement, encode, portBits, tableRow, Opcode.byte] using congrArg BitVec.toNat (fixed_bits_one .rdsr n)
theorem MatchesRow.subint : MatchesRow.Statement .subint := rfl
theorem MatchesRow.period : MatchesRow.Statement .period := rfl
theorem MatchesRow.txrdy : MatchesRow.Statement .txrdy := rfl
theorem MatchesRow.edge : MatchesRow.Statement .edge := rfl

end Sys2Proof.Laws
end

