-- ==== Sys2Proof/Laws/Step.lean ====
section
/-! SUPPORT. What one act of the block is, by context (60 R285), and what the environment's acts of a slot keep. -/

namespace Sys2Proof.Machine

/-- In `FAULTED` the block only serves commands. -/
theorem serve_faulted {s : State} (h : s.ctx = .faulted) : serve s = serveCommand s := by
  simp [serve, h]

/-- Parked, the block only looks whether something is pending. -/
theorem serve_parked {s : State} {m : Nat} (h : s.ctx = .parked m) :
    serve s = .next (if s.pend.any then s.wakeFrom m else s) := by
  simp [serve, h]

/-- Inside an operation the block goes on with it. -/
theorem serve_running {s : State} {t : Task} (h : s.ctx = .main ∨ s.ctx = .handler) (ht : s.task = some t) :
    serve s = resume t s := by
  rcases h with h | h <;> simp [serve, h, ht]

/-- Idle in `MAIN` with an event to take, the block takes it. -/
theorem serve_event {s t : State} {e : EventCode} (h : s.ctx = .main) (ht : s.task = none)
    (hp : pickEvent s = some (e, t)) : serve s = exec e.instr t := by
  simp [serve, h, ht, hp]

/-- Idle in `MAIN` with nothing to take, the block serves the command port. -/
theorem serve_command {s : State} (h : s.ctx = .main) (ht : s.task = none) (hp : pickEvent s = none) :
    serve s = serveCommand s := by
  simp [serve, h, ht, hp]

/-- A legal word at the port runs, taken off the port. -/
theorem serveCommand_legal {s : State} {w : CmdWord} {rest : List CmdWord} {i : Instr} (h : s.cmdIn = w :: rest)
    (hd : decodeCmd w = .ok i) : serveCommand s = exec i { s with cmdIn := rest } := by
  simp [serveCommand, h, hd]

/-- An illegal word at the port is refused, taken off the port. -/
theorem serveCommand_illegal {s : State} {w : CmdWord} {rest : List CmdWord} {r : DecodeReject} (h : s.cmdIn = w :: rest)
    (hd : decodeCmd w = .error r) : serveCommand s = illegalWord { s with cmdIn := rest } := by
  simp [serveCommand, h, hd]

/-- Without a slot the environment does nothing. -/
theorem environment_nil {s : State} (h : s.script = []) : s.environment = s := by
  simp [State.environment, h]

/-- With a slot its acts happen in order. -/
theorem environment_cons {s : State} {acts : List EnvAct} {rest : List (List EnvAct)} (h : s.script = acts :: rest) :
    s.environment = acts.foldl State.envAct { s with script := rest } := by
  simp [State.environment, h]

/-- What every act of a slot keeps, the slot keeps. -/
theorem environment_keeps (P : State → Prop) {s : State} (h0 : P { s with script := s.script.tail })
    (h : ∀ u a, (∃ acts, s.script.head? = some acts ∧ a ∈ acts) → P u → P (u.envAct a)) : P s.environment := by
  cases hs : s.script with
  | nil =>
    rw [environment_nil hs]
    rw [hs, List.tail_nil, ← hs] at h0
    exact h0
  | cons acts rest =>
    rw [environment_cons hs]
    have key : ∀ (l : List EnvAct) (u : State), (∀ a ∈ l, a ∈ acts) → P u → P (l.foldl State.envAct u) := by
      intro l
      induction l with
      | nil => exact fun _ _ hu => hu
      | cons a l ih =>
        intro u hl hu
        exact ih _ (fun b hb => hl b (by simp [hb])) (h u a ⟨acts, by simp [hs], hl a (by simp)⟩ hu)
    exact key acts _ (fun _ ha => ha) (by simpa [hs] using h0)

end Sys2Proof.Machine
end

