-- ==== Sys2Proof/Tests/Slice0.lean ====
section
/-! SUPPORT. Tests with expected results from spec/95_test_vectors.md, the smoke test of the operand checks, and for every
statement with hypotheses a state and operands that meet them. -/

open Sys2Proof Sys2Proof.Machine

namespace Sys2Proof.Tests

/-! ### Helpers -/

/-- The next state, if there is one. -/
def after (o : Out) : Option State :=
  match o with
  | .next s => some s
  | .fault _ => none
  | .refused _ => none

/-- `TESTCFG` with `CAP_MAX = 16` (95 V-ENC-20). -/
def smallCfg : Config := { Config.test with capMax := 16 }

/-- Reset with a hold table. -/
def held (h : List Nat) : State := { State.reset with hold := h }

/-- Reset with an event pending and nothing else. -/
def pending (e : EventCode) : State := { State.reset with pend := Pend.zero.put true e }

/-- Reset with answers ready. -/
def answering (e : Env) : State := { State.reset with env := e }

/-- The ring of capacity one, empty and full (95 V-RING-5). -/
def emptyOne : State := { State.reset with rbCap := 1#8 }
def fullOne : State := { State.reset with rbCap := 1#8, rbCount := 1#8, rbMem := [(0, 0x7E#8)] }

/-- `FAULTED` after a mismatched release (95 V-ARB-3). -/
def faultedState : State :=
  { State.reset with hold := [0, 0, 1, 0], fault := ⟨true, false⟩, ctx := .faulted }

/-- Answers for one `PERIOD` of 95 section 2: six acknowledgments, the four samples with one not-done, no change. -/
def scenarioAnswers : Env :=
  { Env.zero with
    busAck := [true, true, true, true, true, true]
    adcDone := [true, true, false, true, true]
    adcResult := [100, 102, 98, 100]
    acmpOut := [false] }

/-- Answers for a `PERIOD` with so many acknowledgments, every conversion done at once with code 100, and a reading. -/
def plainAnswers (acks : List Bool) (c : Bool) : Env :=
  { Env.zero with
    busAck := acks, adcDone := [true, true, true, true], adcResult := [100, 100, 100, 100], acmpOut := [c] }

/-! ### The operand checks refuse what is ill-formed (30 R107; 95 V-ENC-14 to V-ENC-21) -/

theorem test_acq_mode_check : (Instr.acq 4#8).wellFormed Config.test = false ∧
    (Instr.acq 3#8).wellFormed Config.test = true := by decide
theorem test_rel_mode_check : (Instr.rel 255#8).wellFormed Config.test = false ∧
    (Instr.rel 3#8).wellFormed Config.test = true := by decide
theorem test_alloc_capacity_check : (Instr.alloc 17#8).wellFormed smallCfg = false ∧
    (Instr.alloc 255#8).wellFormed Config.test = true := by decide
theorem test_rdsr_number_check : (Instr.rdsr 0x04#8).wellFormed Config.test = false ∧
    (Instr.rdsr 0x14#8).wellFormed Config.test = false ∧ (Instr.rdsr 0x35#8).wellFormed Config.test = false ∧
    (Instr.rdsr 0x34#8).wellFormed Config.test = true := by decide

/-! ### Decoding: the words of 95 section 4.1 and 4.2 -/

theorem test_decode_acq : decode (.cmd 0x10020000#32) = .ok (.acq 2#8) := by decide
theorem test_decode_rel : decode (.cmd 0x11020000#32) = .ok (.rel 2#8) := by decide
theorem test_decode_sel : decode (.cmd 0x12000000#32) = .ok .sel := by decide
theorem test_decode_enter : decode (.cmd 0x13000000#32) = .ok .enter := by decide
theorem test_decode_alloc : decode (.cmd 0x20080000#32) = .ok (.alloc 8#8) := by decide
theorem test_decode_enq : decode (.cmd 0x21410000#32) = .ok (.enq 0x41#8) := by decide
theorem test_decode_deq : decode (.cmd 0x22000000#32) = .ok .deq := by decide
theorem test_decode_rdreg : decode (.cmd 0x300C0000#32) = .ok (.rdreg 0x0C#8) := by decide
theorem test_decode_wrreg : decode (.cmd 0x3105A700#32) = .ok (.wrreg 0x05#8 0xA7#8) := by decide
theorem test_decode_rdsr : decode (.cmd 0x40300000#32) = .ok (.rdsr 0x30#8) := by decide
theorem test_decode_subint : decode (.evt 0#2) = .ok .subint := by decide
theorem test_decode_period : decode (.evt 1#2) = .ok .period := by decide
theorem test_decode_txrdy : decode (.evt 2#2) = .ok .txrdy := by decide
theorem test_decode_edge : decode (.evt 3#2) = .ok .edge := by decide
theorem test_decode_reserved : decodeCmd 0x00000000#32 = .error .reservedOpcode ∧
    decodeCmd 0x14000000#32 = .error .reservedOpcode ∧ decodeCmd 0x41000000#32 = .error .reservedOpcode := by decide
theorem test_decode_unused_fields : decodeCmd 0x10020001#32 = .error .nonzeroZ ∧
    decodeCmd 0x10020100#32 = .error .unusedB ∧ decodeCmd 0x22FF0000#32 = .error .unusedA := by decide
theorem test_table_word : decodeTableWord 32 0x3105A700 = some (.wrreg 0x05#8 0xA7#8) ∧
    decodeTableWord 8 1 = some .period ∧ decodeTableWord 8 4 = none ∧ decodeTableWord 32 0xFFFFFFFF = none := by decide

/-! ### One step of each operation -/

/-- 95 V-ARB-2 step 6. -/
theorem test_acq_counts : (after (exec (.acq 2#8) (held [0, 0, 1, 1]))).map (fun s => (s.hold, s.rsp)) =
    some ([0, 0, 2, 1], [0x0000#16]) := by decide
/-- 95 V-ARB-4. -/
theorem test_acq_overflow : (after (exec (.acq 3#8) (held [0, 0, 0, 255]))).map (fun s => (s.hold, s.ctx, s.rsp)) =
    some ([0, 0, 0, 255], .faulted, [0x0500#16]) := by decide
/-- 95 V-ARB-2 step 9. -/
theorem test_rel_counts : (after (exec (.rel 2#8) (held [0, 0, 2, 1]))).map (fun s => (s.hold, s.rsp)) =
    some ([0, 0, 1, 1], [0x0000#16]) := by decide
/-- 95 V-ARB-3 step 1. -/
theorem test_rel_mismatch : (after (exec (.rel 1#8) (held [0, 0, 1, 0]))).map (fun s => (s.fault, s.ctx, s.rsp)) =
    some (⟨true, false⟩, .faulted, [0x0400#16]) := by decide
/-- 95 V-ARB-1, a row with a mode and a row with none. -/
theorem test_sel : (after (exec .sel (held [0, 0, 1, 1]))).map (·.rsp) = some [0x0001#16] ∧
    (after (exec .sel (held [1, 0, 1, 0]))).map (·.rsp) = some [0x00FF#16] := by decide
/-- 95 section 2 step 1. -/
theorem test_enter_parks : (after (exec .enter State.reset)).map (fun s => (s.ctx, s.trace.drop 5, s.rsp)) =
    some (.parked 3, [.park 3], []) := by decide
/-- 95 V-ARB-2 step 17. -/
theorem test_enter_none : (after (exec .enter (held [1, 1, 0, 1]))).map (fun s => (s.ctx, s.trace.drop 5, s.rsp)) =
    some (.main, [.parkNone], [0x00FF#16]) := by decide
/-- 95 V-RING-1 step 1. -/
theorem test_alloc : (after (exec (.alloc 4#8) State.reset)).map (fun s => (s.rbCap, s.rbCount, s.rsp)) =
    some (4#8, 0#8, [0x0000#16]) := by decide
/-- 95 V-RING-1 step 5: the head wraps. -/
theorem test_enq_wraps : (after (exec (.enq 0x44#8)
      { State.reset with rbCap := 4#8, rbHead := 3#8, rbCount := 3#8, rbMem := [(0, 0x11#8), (1, 0x22#8), (2, 0x33#8)] })).map
      (fun s => (s.rbHead, s.rbCount, s.rbMem)) =
    some (0#8, 4#8, [(0, 0x11#8), (1, 0x22#8), (2, 0x33#8), (3, 0x44#8)]) := by decide
/-- 95 V-RING-5. -/
theorem test_enq_full : (after (exec (.enq 0x7F#8) fullOne)).map (fun s => (s.rbMem, s.err.bufFull, s.rsp)) =
    some ([(0, 0x7E#8)], true, [0x0100#16]) := by decide
/-- 95 V-RING-1 step 14: the tail wraps. -/
theorem test_deq_wraps : (after (exec .deq
      { State.reset with
        rbCap := 4#8, rbHead := 2#8, rbTail := 3#8, rbCount := 3#8,
        rbMem := [(0, 0x55#8), (1, 0x66#8), (3, 0x44#8)] })).map (fun s => (s.rbTail, s.rbCount, s.rsp)) =
    some (0#8, 2#8, [0x0044#16]) := by decide
/-- 95 V-RING-1 step 17. -/
theorem test_deq_empty : (after (exec .deq State.reset)).map (fun s => (s.rbTail, s.err.bufEmpty, s.rsp)) =
    some (0#8, true, [0x0200#16]) := by decide
/-- 95 V-SER-5. -/
theorem test_rdreg : (after (exec (.rdreg 0x0C#8)
      (answering { Env.zero with busAck := [true, true, true], busRx := [some 0x5A#8] }))).map
      (fun s => (s.trace.drop 5, s.rsp)) =
    some ([.bus .start, .bus (.tx 0x72#8), .bus (.tx 0x8C#8), .bus .repStart, .bus (.tx 0x73#8), .bus .mnack, .bus .stop],
      [0x005A#16]) := by decide
/-- 95 V-SER-9: the data wait times out. -/
theorem test_rdreg_timeout : (after (exec (.rdreg 0x0C#8)
      (answering { Env.zero with busAck := [true, true, true], busRx := [none] }))).map
      (fun s => (s.trace.drop 5, s.err.protoTimeout, s.rsp)) =
    some ([.bus .start, .bus (.tx 0x72#8), .bus (.tx 0x8C#8), .bus .repStart, .bus (.tx 0x73#8), .bus .stop],
      true, [0x0300#16]) := by decide
/-- 95 V-SER-1. -/
theorem test_wrreg : (after (exec (.wrreg 0x00#8 0x03#8) (answering { Env.zero with busAck := [true, true, true] }))).map
      (fun s => (s.trace.drop 5, s.rsp)) =
    some ([.bus .start, .bus (.tx 0x72#8), .bus (.tx 0x80#8), .bus (.tx 0x03#8), .bus .stop], [0x0000#16]) := by decide
/-- 95 V-SER-3. -/
theorem test_wrreg_timeout : (after (exec (.wrreg 0x00#8 0x03#8) (answering { Env.zero with busAck := [true, false] }))).map
      (fun s => (s.trace.drop 5, s.rsp)) =
    some ([.bus .start, .bus (.tx 0x72#8), .bus (.tx 0x80#8), .bus .stop], [0x0300#16]) := by decide
/-- 95 section 5.5. -/
theorem test_rdsr : [0x13#8, 0x20#8, 0x34#8, 0x03#8].map (readSr State.reset) =
    [some 0x08#8, some 0x02#8, some 0x03#8, some 0x00#8] := by decide
/-- 95 section 4.3. -/
theorem test_rdsr_faulted : (after (exec (.rdsr 0x31#8) faultedState)).map (·.rsp) = some [0x0001#16] ∧
    (after (exec (.rdsr 0x04#8) faultedState)).map (·.rsp) = some [0x0800#16] := by decide
/-- 95 section 2 step 3. -/
theorem test_subint : (after (exec .subint (answering { Env.zero with acmpWarm := [false, true] }))).map
      (fun s => (outByte s.out, s.ctx, s.trace.drop 5)) =
    some (0x11#8, .main, [.acmpEn, .gpio .excite true]) := by decide
/-- 70 R325: without the answer the handler stays at the wait. -/
theorem test_subint_waits : (after (exec .subint (answering { Env.zero with acmpWarm := [false] }))).map
      (fun s => (s.ctx, s.task)) = some (.handler, some .subintWarm) := by decide
/-- 95 section 2 step 6. -/
theorem test_period_cells :
    (after (exec .period { answering scenarioAnswers with out := ⟨true, false, false, false, true⟩ })).map
      (fun s => (s.hold, s.ctr, s.temp, outByte s.out)) = some ([0, 0, 1, 1], .powerUp, 0x41C80000#32, 0x0A#8) := by decide
/-- 95 section 2 step 6: the burst left in the ring. -/
theorem test_period_burst : (after (exec .period (answering scenarioAnswers))).map State.queue =
    some [some 0x00#8, some 0xC8#8, some 0x41#8, some 0x00#8] := by decide
/-- 95 V-SEQ-1 period 3. -/
theorem test_period_tear_down : (after (exec .period
      { answering { plainAnswers [true, true, true] false with adcResult := [101, 101, 101, 101] } with
        hold := [0, 0, 1, 0], ctr := .dwell, lastCmp := true, led := true, thr := .high,
        out := ⟨true, true, true, true, true⟩ })).map (fun s => (s.hold, outByte s.out, s.trace.drop 5)) =
    some ([0, 0, 0, 1], 0x00#8,
      [.edgeIrq false, .bus .start, .bus (.tx 0x72#8), .bus (.tx 0x80#8), .bus (.tx 0x00#8), .bus .stop, .gpio .pwrEn false,
       .adcStart, .adcStart, .adcStart, .adcStart, .acmpDis, .gpio .excite false, .acmpRef 2, .gpio .status false,
       .txSend 0xCD#8]) := by decide
/-- 95 section 2 step 8. -/
theorem test_txrdy_sends : (after (exec .txrdy
      { State.reset with
        hold := [0, 0, 1, 1], rbHead := 5#8, rbTail := 1#8, rbCount := 4#8,
        rbMem := [(1, 0x00#8), (2, 0xC8#8), (3, 0x41#8), (4, 0x00#8)] })).map
      (fun s => (s.rbTail, s.rbCount, s.trace.drop 5)) = some (2#8, 3#8, [.txSend 0x00#8]) := by decide
/-- 95 V-SEQ-10. -/
theorem test_txrdy_too_many : (after (exec .txrdy State.reset)).map (fun s => (s.fault, s.ctx, s.trace.drop 5)) =
    some (⟨true, false⟩, .faulted, []) := by decide
/-- 95 V-SEQ-6. -/
theorem test_edge : (after (exec .edge { pending .edge with out := ⟨false, true, false, true, false⟩ })).map
      (fun s => (s.pend, s.trace.drop 5)) = some (Pend.zero, [.edgeFwd]) := by decide
/-- 95 V-SEQ-6: an edge that arrives while the interrupt is disabled is dropped. -/
theorem test_edge_dropped : (State.reset.envAct (.event .edge)).pend = Pend.zero := by decide
/-- 95 section 6. -/
theorem test_convert : [100, 99, 101, 0, 4095].map (convert Config.test) =
    [some 0x41C80000#32, some 0x41C73333#32, some 0x41C8CCCD#32, some 0x41700000#32, some 0x43D44000#32] := by decide

/-! ### The fetch: the very next step runs the word -/

theorem test_fetch_command : after (step (State.reset.withFetchWord 32 0x21410000)) =
    after (exec (.enq 0x41#8) State.reset) := by decide
theorem test_fetch_event : after (step (State.reset.withFetchWord 8 3)) = after (exec .edge (pending .edge)) := by decide

/-! ### Witnesses: states and operands that meet the hypotheses of the statements

One theorem per statement that has hypotheses, a part per clause, with boundary values where a clause has a range. -/

/-- Reset with all four events pending. -/
def allPending : State := { State.reset with pend := ⟨true, true, true, true⟩ }

/-- A handler at a wait, and `MAIN` inside a command. -/
def inHandler : State := { State.reset with ctx := .handler, task := some .subintWarm }
def inCommand : State := { State.reset with task := some (.writeReg [.ack]) }

/-- Reset with an input at the command port. -/
def presented (w : CmdWord) : State := { State.reset with cmdIn := [w] }

/-- `FAULTED` with every sticky flag set. -/
def allFlags : State :=
  { faultedState with err := ⟨true, true, true, true, true⟩, fault := ⟨true, true⟩ }

theorem ringOk_reset : RingOk State.reset :=
  ⟨by decide, by decide, by decide, by decide, by decide, by
    intro a
    simp [State.reset, State.resetOf, Memory.read]⟩
theorem ringOk_emptyOne : RingOk emptyOne :=
  ⟨by decide, by decide, by decide, by decide, by decide, by
    intro a
    simp [emptyOne, State.reset, State.resetOf, Memory.read]⟩
theorem ringOk_fullOne : RingOk fullOne :=
  ⟨by decide, by decide, by decide, by decide, by decide, by
    intro a
    simpa [fullOne, State.reset, State.resetOf, Memory.read] using (eq_comm : 0 = a ↔ a = 0)⟩
/-- The invariant at reset, whatever answers are ready and whatever but an edge is pending. -/
theorem blockInv_reset (e : Env) (a b c : Bool) : BlockInv { State.reset with env := e, pend := ⟨a, b, c, false⟩ } where
  platform := ⟨show configOk Config.test = true by decide, by simp [State.reset, State.resetOf]⟩
  hold := ⟨show State.reset.hold.length = 4 by decide, show ∀ n ∈ State.reset.hold, n ≤ 255 by decide⟩
  ring := ⟨ringOk_reset.1, ringOk_reset.2, ringOk_reset.3, ringOk_reset.4, ringOk_reset.5, ringOk_reset.6⟩
  context := ⟨show State.reset.ctx = .faulted ↔ State.reset.fault.any = true by decide,
    by simp [State.reset, State.resetOf], by simp [State.reset, State.resetOf], by simp [State.reset, State.resetOf]⟩
  latches := ⟨rfl, show State.reset.thr = .high ↔ State.reset.led = true by decide, by simp⟩
  schedule := ⟨by simp [State.reset, State.resetOf, OutLatch.zero], by simp [State.reset, State.resetOf, OutLatch.zero],
    by simp [State.reset, State.resetOf], by simp [State.reset, State.resetOf]⟩
  numbers := ⟨.inl (show f32Finite 0#32 = true by decide), by simp [State.reset, State.resetOf],
    by simp [State.reset, State.resetOf]⟩

theorem witness_encode_inverts_decode :
    decode (.cmd 0x3105A700#32) = .ok (.wrreg 0x05#8 0xA7#8) ∧ decode (.cmd 0x200000FF#32) ≠ .ok .deq := by decide
theorem witness_illegal_word : Ready (presented 0xFFFFFFFF#32) ∧ (presented 0xFFFFFFFF#32).environment =
    presented 0xFFFFFFFF#32 ∧ (presented 0xFFFFFFFF#32).pend = Pend.zero ∧ decodeCmd 0xFFFFFFFF#32 = .error .reservedOpcode := by
  decide
theorem witness_operand_out_of_range : Ready State.reset ∧ (Instr.acq 4#8).wellFormed State.reset.cfg = false ∧
    (Instr.rdsr 0x35#8).wellFormed State.reset.cfg = false := by decide
theorem witness_step_runs_the_command :
    let s := (presented 0x12000000#32).environment
    s.ctx = .main ∧ s.task = none ∧ s.pend = Pend.zero ∧ s.cmdIn = [0x12000000#32] ∧
      decodeCmd 0x12000000#32 = .ok .sel := by decide
theorem witness_step_idles : State.reset.environment.ctx = .main ∧ State.reset.environment.task = none ∧
    State.reset.environment.pend = Pend.zero ∧ State.reset.environment.cmdIn = [] := by decide
/-- The second part: with all four pending, the favoured one is pending whatever it is. -/
theorem witness_step_takes_an_event :
    ((pending .txrdy).environment.ctx = .main ∧ (pending .txrdy).environment.task = none ∧
      (pending .txrdy).environment.pend.any = true ∧ (pending .txrdy).environment.pend = Pend.zero.put true .txrdy) ∧
    (allPending.environment.ctx = .main ∧ allPending.environment.task = none ∧
      allPending.environment.pend.get (Config.evtChoice allPending.environment.choiceIx) = true ∧
      allPending.environment.cfg.evtOrder = .anyOrder) := by
  refine ⟨by decide, by decide, by decide, ?_, by decide⟩
  cases Config.evtChoice allPending.environment.choiceIx <;> decide
theorem witness_ready : Ready State.reset ∧ Ready allPending := by decide
theorem witness_arrivals : EventCode.txrdy ≠ .edge ∧ inHandler.out.edgeIrqEn = false ∧ EventCode.subint ≠ .period ∧
    ({ State.reset with out := ⟨false, true, false, true, false⟩ } : State).out.edgeIrqEn = true := by decide
/-- A step in `HANDLER` and inside a command, where it answers a next state with an event and a word waiting. -/
theorem witness_outside_main_step :
    (let s : State := { inHandler with pend := ⟨false, true, true, false⟩, cmdIn := [0x12000000#32] }
     s.environment.ctx = .handler ∧ s.environment.task = some .subintWarm ∧ (after (step s)).isSome = true) ∧
    (let s : State := { inCommand with pend := ⟨false, true, true, false⟩, env := { Env.zero with busAck := [true] } }
     s.environment.ctx = .main ∧ s.environment.task = some (.writeReg [.ack]) ∧
      (after (step s)).map (·.rsp) = some [0x0000#16]) := by decide
theorem witness_outside_main : configOk inHandler.cfg = true ∧ inHandler.ctx = .handler ∧
    ({ State.reset with ctx := .parked 3 } : State).ctx = .parked 3 ∧
    (inCommand.ctx = .main ∧ inCommand.task.isSome = true) := by decide
/-- Parked with nothing pending, and with the event that arrives in the slot. -/
theorem witness_parked :
    let s : State := { State.reset with ctx := .parked 3 }
    s.environment.ctx = .parked 3 ∧ s.environment.pend.any = false ∧
    ({ s with script := [[.event .subint]] } : State).environment.ctx = .parked 3 ∧
    ({ s with script := [[.event .subint]] } : State).environment.pend.any = true := by decide
/-- A legal command, an `RDSR` out of range, and an illegal word. -/
theorem witness_faulted_refuses : configOk faultedState.cfg = true ∧ faultedState.ctx = .faulted ∧
    (({ faultedState with cmdIn := [0x12000000#32] } : State).environment.cmdIn = [0x12000000#32] ∧
      decodeCmd 0x12000000#32 = .ok .sel) ∧
    (decodeCmd 0x40040000#32 = .ok (.rdsr 0x04#8) ∧ (Instr.rdsr 0x04#8).wellFormed faultedState.cfg = false) ∧
    decodeCmd 0x00000000#32 = .error .reservedOpcode := by decide
theorem witness_faulted_stays :
    let s : State := { faultedState with script := [[.event .period]] }
    s.ctx = .faulted ∧ s.script.head? = some [.event .period] ∧ (after (step s)).isSome = true := by decide
theorem witness_flags_sticky : (after (exec .sel allFlags)).isSome = true ∧ allFlags.err = ⟨true, true, true, true, true⟩ ∧
    allFlags.fault = ⟨true, true⟩ := by decide
/-- An exchange that goes on with a flag set, by itself and by a step with an event in its slot. -/
theorem witness_flags_sticky_going_on :
    let s : State :=
      { inCommand with
        err := ⟨true, true, true, true, true⟩
        env := { Env.zero with busAck := [true] }
        script := [[.event .period]] }
    (after (resume (.writeReg [.ack]) s)).map (·.err) = some ⟨true, true, true, true, true⟩ ∧
    s.script.head? = some [.event .period] ∧ (after (step s)).map (·.err) = some ⟨true, true, true, true, true⟩ := by decide
/-- A counter at zero and one just below the top, for `ACQ`; one at one and at the top, for `REL`; the two ends. -/
theorem witness_holds :
    let s := held [0, 254, 255, 1]
    Ready s ∧ s.cfg.nmodes = 4 ∧ s.holdOf 0 = 0 ∧ s.holdOf 1 ≠ 2 ^ s.cfg.holdW - 1 ∧ s.holdOf 2 = 2 ^ s.cfg.holdW - 1 ∧
      s.holdOf 3 ≠ 0 := by decide
/-- No hold, mode 0 held, the deepest mode held, and a selection. -/
theorem witness_selection : (∀ k, k < 4 → [0, 0, 0, 0].getD k 0 = 0) ∧ 0 < [1, 0, 0, 0].getD 0 0 ∧
    (0 < [0, 0, 0, 1].getD 3 0 ∧ ∀ j, j < 3 → [0, 0, 0, 1].getD j 0 = 0) ∧ sel 4 [0, 0, 1, 1] = some 1 := by decide
theorem witness_arbiter_laws : 3 < (held [0, 0, 0, 254]).hold.length ∧
    acquire 3 (held [0, 0, 0, 254]) = .ok (held [0, 0, 0, 255]) ∧
    (sel 4 [0, 0, 1, 1] = some 1 ∧ 0 < [0, 0, 1, 1].getD 2 0) ∧
    ([0, 0, 1, 1].length = [0, 0, 2, 9].length ∧ ∀ k, k < 5 → (0 < [0, 0, 1, 1].getD k 0 ↔ 0 < [0, 0, 2, 9].getD k 0)) := by
  decide
theorem witness_enter : Ready State.reset ∧ sel State.reset.cfg.nmodes State.reset.hold = some 3 ∧
    State.reset.pend.any = false ∧ (Ready allPending ∧ sel allPending.cfg.nmodes allPending.hold = some 3 ∧
      allPending.pend.any = true) ∧ (Ready (held [1, 0, 0, 0]) ∧ sel 4 [1, 0, 0, 0] = none) := by decide
theorem witness_alloc : Ready State.reset ∧ (0xFF#8).toNat ≤ State.reset.cfg.capMax ∧
    (0x00#8).toNat ≤ State.reset.cfg.capMax := by decide
theorem witness_enq : (Ready emptyOne ∧ RingOk emptyOne ∧ emptyOne.rbCount.toNat < emptyOne.rbCap.toNat) ∧
    (Ready fullOne ∧ RingOk fullOne ∧ fullOne.rbCount = fullOne.rbCap) :=
  ⟨⟨by decide, ringOk_emptyOne, by decide⟩, by decide, ringOk_fullOne, by decide⟩
theorem witness_deq : (Ready fullOne ∧ RingOk fullOne ∧ 0 < fullOne.rbCount.toNat) ∧
    (Ready emptyOne ∧ RingOk emptyOne ∧ emptyOne.rbCount = 0#8) :=
  ⟨⟨by decide, ringOk_fullOne, by decide⟩, by decide, ringOk_emptyOne, by decide⟩
theorem witness_ring_is_a_queue : RingOk emptyOne ∧ (∃ s, rbEnqueue 0x7E#8 emptyOne = .stored s) ∧ RingOk fullOne ∧
    (∃ s, rbDequeue fullOne = .taken 0x7E#8 s) :=
  ⟨ringOk_emptyOne, ⟨_, rfl⟩, ringOk_fullOne, _, rfl⟩
theorem witness_round_trip : RingOk State.reset ∧ State.reset.rbCount = 0#8 ∧
    (List.replicate 8 0x5A#8).length ≤ State.reset.rbCap.toNat :=
  ⟨ringOk_reset, by decide, by decide⟩
theorem witness_rdreg :
    let s := answering { Env.zero with busAck := [true, true, true], busRx := [some 0xFF#8] }
    Ready s ∧ s.env.busAck = [true, true, true] ∧ s.env.busRx = [some 0xFF#8] := by decide
/-- The first and the last acknowledgment, and the data wait. -/
theorem witness_timeout :
    (let s := answering { Env.zero with busAck := [false] }
     Ready s ∧ s.env.busAck = List.replicate 0 true ++ [false]) ∧
    (let s := answering { Env.zero with busAck := [true, true, false] }
     Ready s ∧ s.env.busAck = List.replicate 2 true ++ [false]) ∧
    (let s := answering { Env.zero with busAck := [true, true, true], busRx := [none] }
     Ready s ∧ s.env.busAck = [true, true, true] ∧ s.env.busRx = [none]) := by decide
/-- A run that completes, one that times out at a wait of each kind, one that waits at each kind. -/
theorem witness_bus_ends :
    (∃ s, busRun (readFrame Config.test 0x0C#8) 0x00#8
      (answering { Env.zero with busAck := [true, true, true], busRx := [some 0x5A#8] }) = .done 0x5A#8 s) ∧
    (∃ s, busRun (writeFrame Config.test 0x00#8 0x03#8) 0x00#8
      (answering { Env.zero with busAck := [true, false] }) = .timeout s) ∧
    (∃ s, busRun (readFrame Config.test 0x0C#8) 0x00#8
      (answering { Env.zero with busAck := [true, true, true], busRx := [none] }) = .timeout s) ∧
    (∃ s, busRun (writeFrame Config.test 0x00#8 0x03#8) 0x00#8
      (answering { Env.zero with busAck := [true, true] }) = .waiting [.ack, .send .stop] s) ∧
    (∃ s, busRun (readFrame Config.test 0x0C#8) 0x00#8
      (answering { Env.zero with busAck := [true, true, true] }) = .waiting [.rx, .send .mnack, .send .stop] s) :=
  ⟨⟨_, rfl⟩, ⟨_, rfl⟩, ⟨_, rfl⟩, ⟨_, rfl⟩, _, rfl⟩
/-- The least and the greatest number of modes, a listed and an unlisted number at the edges. -/
theorem witness_status_registers : 2 ≤ Config.test.nmodes ∧ configOk { Config.test with nmodes := 16 } = true ∧
    srListed Config.test 0x03#8 = true ∧ srListed Config.test 0x04#8 = false ∧ srListed Config.test 0x34#8 = true ∧
    srListed Config.test 0x35#8 = false := by decide
theorem witness_rdsr : (configOk State.reset.cfg = true ∧ State.reset.task = none ∧ State.reset.ctx = .main ∧
      readSr State.reset 0x20#8 = some 0x02#8) ∧
    (faultedState.task = none ∧ faultedState.ctx = .faulted ∧ readSr faultedState 0x31#8 = some 0x01#8) := by decide
theorem witness_pend_reads_zero : Ready (presented 0x40330000#32) ∧ (presented 0x40330000#32).environment =
    presented 0x40330000#32 ∧ (presented 0x40330000#32).pend = Pend.zero := by decide
theorem witness_subint :
    (answering { Env.zero with acmpWarm := [true] }).env.acmpWarm = List.replicate 0 false ++ true :: [] ∧
    Ready (answering { Env.zero with acmpWarm := [true] }) ∧
    (answering { Env.zero with acmpWarm := [false, false] }).env.acmpWarm = List.replicate 2 false := by decide

/-- Four conversions of code 100, the second and fourth done at once, and a converter that is silent at the second. -/
def hundreds : List Nat := [100, 100, 100, 100]
def slow (acks : List Bool) (c : Bool) : Env :=
  { plainAnswers acks c with adcDone := [false, true, true, false, false, true, true] }
def silent (acks : List Bool) : Env := { Env.zero with busAck := acks, adcDone := [true, false], adcResult := [100] }

/-- The states of the four kinds of `PERIOD`, with their environment's answers. In `deadUp` the second write times out at its
last wait, in `deadDown` the only one at its first. -/
def upState (e : Env) : State := answering e
def dwellState (e : Env) : State := { answering e with ctr := .powerUp }
def downState (e : Env) : State := { answering e with hold := [0, 0, 1, 0], ctr := .dwell }
def sixAcks : List Bool := [true, true, true, true, true, true]
def deadAcks : List Bool := [true, true, true, true, true, false]

/-- The states in which those handlers enter step 2. -/
def upEntry (s : State) : State := afterPowerUp s (s.cfg.cfgSeq.flatMap fun w => writeTrace s.cfg w.1 w.2) [] s.err
def downEntry (s : State) : State := afterTearDown s (writeTrace s.cfg s.cfg.offWrite.1 s.cfg.offWrite.2) [] s.err
def deadUpEntry (s : State) : State :=
  afterPowerUp s (([(0x00#8, 0x03#8)].flatMap fun w => writeTrace s.cfg w.1 w.2) ++
    (writeTrace s.cfg 0x01#8 0x02#8).take 4 ++ abandonTrace s.cfg) [] (timedOut s.err)
def deadDownEntry (s : State) : State :=
  afterTearDown s ((writeTrace s.cfg s.cfg.offWrite.1 s.cfg.offWrite.2).take 2 ++ abandonTrace s.cfg) [] (timedOut s.err)

theorem samplingAnswers_of {p : State} {waits codes : List Nat} {c : Bool}
    (n : waits.length = p.cfg.adcSamples ∧ codes.length = p.cfg.adcSamples ∧ ∀ k ∈ codes, k < 2 ^ p.cfg.adcW)
    (d : p.env.adcDone = doneAnswers waits) (r : p.env.adcResult = codes) (a : p.env.acmpOut = [c]) :
    SamplingAnswers p waits codes c :=
  ⟨n.1, n.2.1, n.2.2, ⟨[], by simp [d]⟩, ⟨[], by simp [r]⟩, [], a⟩

/-- The hypotheses of `FinishesOrWaits` for an entry into step 2: one state whose handler finishes and one whose handler waits,
once at the first and once at a later conversion. -/
theorem witness_period_dwell :
    (let s := dwellState (slow [] false)
     Ready s ∧ s.ctr = .powerUp ∧ RoomForSteps (afterDwell s) ∧ SamplingAnswers (afterDwell s) [1, 0, 2, 0] hundreds false) ∧
    (let s := dwellState (silent [])
     Ready s ∧ s.ctr = .powerUp ∧ RoomForSampling (afterDwell s) ∧ ConverterSilent (afterDwell s) [0] [100]) ∧
    (let s := dwellState Env.zero
     Ready s ∧ s.ctr = .powerUp ∧ RoomForSampling (afterDwell s) ∧ ConverterSilent (afterDwell s) [] []) :=
  ⟨⟨by decide, by decide, by unfold RoomForSteps RoomForSampling; decide, samplingAnswers_of (by decide) rfl rfl rfl⟩,
   ⟨by decide, by decide, by unfold RoomForSampling; decide, by decide, by decide, by decide, ⟨1, rfl⟩, [], rfl⟩,
   by decide, by decide, by unfold RoomForSampling; decide, by decide, by decide, by decide, ⟨0, rfl⟩, [], rfl⟩
theorem witness_period_power_up :
    (let s := upState (slow sixAcks true)
     Ready s ∧ s.ctr = .tearDown ∧ s.holdOf s.cfg.mBus ≠ 2 ^ s.cfg.holdW - 1 ∧
     s.env.busAck = List.replicate (3 * s.cfg.cfgSeq.length) true ++ [] ∧ RoomForSteps (upEntry s) ∧
     SamplingAnswers (upEntry s) [1, 0, 2, 0] hundreds true) ∧
    (let s := upState (silent sixAcks)
     Ready s ∧ s.ctr = .tearDown ∧ s.holdOf s.cfg.mBus ≠ 2 ^ s.cfg.holdW - 1 ∧
     s.env.busAck = List.replicate (3 * s.cfg.cfgSeq.length) true ++ [] ∧ RoomForSampling (upEntry s) ∧
     ConverterSilent (upEntry s) [0] [100]) :=
  ⟨⟨by decide, by decide, by decide, by decide, by unfold RoomForSteps RoomForSampling; decide,
    samplingAnswers_of (by decide) rfl rfl rfl⟩,
   by decide, by decide, by decide, by decide, by unfold RoomForSampling; decide, by decide, by decide, by decide, ⟨1, rfl⟩,
    [], rfl⟩
theorem witness_period_tear_down :
    (let s := downState (slow [true, true, true] false)
     Ready s ∧ s.ctr = .dwell ∧ s.holdOf s.cfg.mBus ≠ 0 ∧ s.env.busAck = [true, true, true] ∧
     RoomForSteps (downEntry s) ∧ SamplingAnswers (downEntry s) [1, 0, 2, 0] hundreds false) ∧
    (let s := downState (silent [true, true, true])
     Ready s ∧ s.ctr = .dwell ∧ s.holdOf s.cfg.mBus ≠ 0 ∧ s.env.busAck = [true, true, true] ∧
     RoomForSampling (downEntry s) ∧ ConverterSilent (downEntry s) [0] [100]) :=
  ⟨⟨by decide, by decide, by decide, by decide, by unfold RoomForSteps RoomForSampling; decide,
    samplingAnswers_of (by decide) rfl rfl rfl⟩,
   by decide, by decide, by decide, by decide, by unfold RoomForSampling; decide, by decide, by decide, by decide, ⟨1, rfl⟩,
    [], rfl⟩
/-- A timeout at the last wait of the last write of `CFG_SEQ`. -/
theorem witness_dead_device_up :
    (let s := upState (slow deadAcks true)
     Ready s ∧ s.ctr = .tearDown ∧ s.holdOf s.cfg.mBus ≠ 2 ^ s.cfg.holdW - 1 ∧
     s.cfg.cfgSeq = [(0x00#8, 0x03#8)] ++ (0x01#8, 0x02#8) :: [] ∧
     s.env.busAck = List.replicate (3 * 1 + 2) true ++ false :: [] ∧ RoomForSteps (deadUpEntry s) ∧
     SamplingAnswers (deadUpEntry s) [1, 0, 2, 0] hundreds true) ∧
    (let s := upState (silent deadAcks)
     Ready s ∧ s.ctr = .tearDown ∧ s.env.busAck = List.replicate (3 * 1 + 2) true ++ false :: [] ∧
     RoomForSampling (deadUpEntry s) ∧ ConverterSilent (deadUpEntry s) [0] [100]) :=
  ⟨⟨by decide, by decide, by decide, by decide, by decide, by unfold RoomForSteps RoomForSampling; decide,
    samplingAnswers_of (by decide) rfl rfl rfl⟩,
   by decide, by decide, by decide, by unfold RoomForSampling; decide, by decide, by decide, by decide, ⟨1, rfl⟩, [], rfl⟩
/-- A timeout at the first wait of the power-off write. -/
theorem witness_dead_device_down :
    (let s := downState (slow [false] false)
     Ready s ∧ s.ctr = .dwell ∧ s.holdOf s.cfg.mBus ≠ 0 ∧ s.env.busAck = List.replicate 0 true ++ false :: [] ∧
     RoomForSteps (deadDownEntry s) ∧ SamplingAnswers (deadDownEntry s) [1, 0, 2, 0] hundreds false) ∧
    (let s := downState (silent [false])
     Ready s ∧ s.ctr = .dwell ∧ s.holdOf s.cfg.mBus ≠ 0 ∧ s.env.busAck = List.replicate 0 true ++ false :: [] ∧
     RoomForSampling (deadDownEntry s) ∧ ConverterSilent (deadDownEntry s) [0] [100]) :=
  ⟨⟨by decide, by decide, by decide, by decide, by unfold RoomForSteps RoomForSampling; decide,
    samplingAnswers_of (by decide) rfl rfl rfl⟩,
   by decide, by decide, by decide, by decide, by unfold RoomForSampling; decide, by decide, by decide, by decide, ⟨1, rfl⟩,
    [], rfl⟩
/-- The bus hold at the top, and at zero after a timeout and after all acknowledgments. -/
theorem witness_period_stops_at_the_bus :
    (let s := held [0, 0, 255, 0]
     Ready s ∧ s.ctr = .tearDown ∧ s.holdOf s.cfg.mBus = 2 ^ s.cfg.holdW - 1) ∧
    (let s : State := { downState (slow [false] false) with hold := [0, 0, 0, 0] }
     Ready s ∧ s.ctr = .dwell ∧ s.holdOf s.cfg.mBus = 0 ∧ WritesAnswered s [s.cfg.offWrite]
       ((writeTrace s.cfg 0x00#8 0x00#8).take 2 ++ abandonTrace s.cfg) [] (timedOut s.err)) ∧
    (let s : State := { downState (slow [true, true, true] false) with hold := [0, 0, 0, 0] }
     Ready s ∧ s.ctr = .dwell ∧ s.holdOf s.cfg.mBus = 0 ∧ WritesAnswered s [s.cfg.offWrite]
       (writeTrace s.cfg 0x00#8 0x00#8) [] s.err) :=
  ⟨by decide, ⟨by decide, by decide, by decide, .inr ⟨[], _, [], 0, rfl, by decide, rfl, rfl, rfl⟩⟩,
    by decide, by decide, by decide, .inl ⟨rfl, rfl, rfl⟩⟩
/-- The converter's hold at the top in step 2, after each phase (in `TESTCFG` it is the bus's mode too). -/
theorem witness_period_stops_at_the_converter :
    (let s : State := { dwellState (slow [] false) with hold := [0, 0, 255, 0] }
     Ready s ∧ EntersStepTwo s (afterDwell s) ∧ (afterDwell s).holdOf s.cfg.mAdc = 2 ^ s.cfg.holdW - 1) ∧
    (let s : State := { upState (slow sixAcks false) with hold := [0, 0, 254, 0] }
     Ready s ∧ EntersStepTwo s (upEntry s) ∧ (upEntry s).holdOf s.cfg.mAdc = 2 ^ s.cfg.holdW - 1) ∧
    (let s : State :=
       { downState (slow [false] false) with cfg := { Config.test with mAdc := 1 }, hold := [0, 255, 1, 0] }
     Ready s ∧ EntersStepTwo s (deadDownEntry s) ∧ (deadDownEntry s).holdOf s.cfg.mAdc = 2 ^ s.cfg.holdW - 1) :=
  ⟨⟨by decide, rfl, by decide⟩, ⟨by decide, ⟨by decide, _, _, _, .inl ⟨rfl, rfl, rfl⟩, rfl⟩, by decide⟩,
    by decide, ⟨by decide, _, _, _, .inr ⟨[], _, [], 0, rfl, by decide, rfl, rfl, rfl⟩, rfl⟩, by decide⟩
/-- The transmitter's hold at the top in step 5, on a ring that takes a burst. -/
theorem witness_period_stops_at_the_transmitter :
    let s : State := { upState (slow deadAcks true) with cfg := { Config.test with rbCap := 5 }, hold := [0, 0, 0, 255] }
    Ready s ∧ EntersStepTwo s (deadUpEntry s) ∧ RoomForSampling (deadUpEntry s) ∧
    (deadUpEntry s).holdOf s.cfg.mTx = 2 ^ s.cfg.holdW - 1 ∧ 5 ≤ (deadUpEntry s).cfg.rbCap ∧
    SamplingAnswers (deadUpEntry s) [1, 0, 2, 0] hundreds true :=
  ⟨by decide, ⟨by decide, _, _, _, .inr ⟨[_], _, [], 2, rfl, by decide, rfl, rfl, rfl⟩, rfl⟩,
    by unfold RoomForSampling; decide, by decide, by decide, samplingAnswers_of (by decide) rfl rfl rfl⟩
/-- Both ends of the range, for step 5 alone and for the handler. -/
theorem witness_small_ring :
    (∀ n ∈ [0, 4], n < 5 ∧ n ≤ Config.test.capMax ∧ configOk { Config.test with rbCap := n } = true) ∧
    (let s : State := { dwellState (slow [] true) with cfg := { Config.test with rbCap := 4 } }
     Ready s ∧ EntersStepTwo s (afterDwell s) ∧ RoomForSampling (afterDwell s) ∧ (afterDwell s).cfg.rbCap < 5 ∧
     SamplingAnswers (afterDwell s) [1, 0, 2, 0] hundreds true) ∧
    (let s : State := { dwellState (slow [] false) with cfg := { Config.test with rbCap := 0 } }
     Ready s ∧ EntersStepTwo s (afterDwell s) ∧ RoomForSampling (afterDwell s) ∧ (afterDwell s).cfg.rbCap < 5 ∧
     SamplingAnswers (afterDwell s) [1, 0, 2, 0] hundreds false) :=
  ⟨by decide,
   ⟨by decide, rfl, by unfold RoomForSampling; decide, by decide, samplingAnswers_of (by decide) rfl rfl rfl⟩,
   by decide, rfl, by unfold RoomForSampling; decide, by decide, samplingAnswers_of (by decide) rfl rfl rfl⟩
/-- The second of two conversions is done at the third question; the widest configuration. -/
theorem witness_mean : [0, 2].length = [0, 4095].length ∧ (∀ k ∈ [0, 4095], k < 2 ^ 12) ∧
    [true, false, false, true] = doneAnswers [0, 2] ++ [] ∧
    (configOk { Config.test with adcSamples := 255, adcW := 16 } = true ∧ 65535 < 2 ^ 16) := by decide
theorem witness_hysteresis : true ≠ State.reset.lastCmp ∧ false = State.reset.lastCmp := by decide
theorem witness_txrdy : (Ready fullOne ∧ RingOk fullOne ∧ 0 < fullOne.rbCount.toNat) ∧
    (Ready emptyOne ∧ RingOk emptyOne ∧ emptyOne.rbCount = 0#8 ∧ emptyOne.holdOf emptyOne.cfg.mTx = 0) ∧
    (Ready (held [0, 0, 0, 1]) ∧ RingOk (held [0, 0, 0, 1]) ∧ (held [0, 0, 0, 1]).rbCount = 0#8 ∧
      (held [0, 0, 0, 1]).holdOf 3 ≠ 0) :=
  ⟨⟨by decide, ringOk_fullOne, by decide⟩, ⟨by decide, ringOk_emptyOne, by decide, by decide⟩, by decide,
    ⟨ringOk_reset.1, ringOk_reset.2, ringOk_reset.3, ringOk_reset.4, ringOk_reset.5, ringOk_reset.6⟩, by decide, by decide⟩
/-- `SEL` is none of the writers. -/
theorem witness_writers : (after (exec .sel State.reset)).isSome = true ∧ Instr.sel ≠ .period ∧ Instr.sel ≠ .subint ∧
    Instr.sel ≠ .txrdy ∧ Instr.sel ≠ .deq := by decide
theorem witness_waiting : Ready State.reset ∧ (after (exec .subint State.reset)).map (·.task) =
    some (some .subintWarm) := by decide
/-- One whole cycle of the power schedule, with a command between. -/
theorem witness_power_cycle :
    (runOps [(.period, plainAnswers [true, true, true, true, true, true] true), (.period, plainAnswers [] true),
      (.enq 0x41#8, Env.zero), (.period, plainAnswers [true, true, true] false)] State.reset).isSome = true := by decide
/-- Both ends of the codes and of the integers. -/
theorem witness_calibration : configOk Config.test = true ∧ 0 < 2 ^ Config.test.adcW ∧ 4095 < 2 ^ Config.test.adcW ∧
    (-65535 : Int).natAbs < 2 ^ 16 ∧ (0 : Int).natAbs < 2 ^ 16 := by decide
/-- The largest finite number, the least subnormal, both zeros, as minuend and as subtrahend. -/
theorem witness_subtracting_zero : f32Finite 0x7F7FFFFF#32 = true ∧ f32Zero 0x7F7FFFFF#32 = false ∧
    f32Finite 0x00000001#32 = true ∧ f32Zero 0x00000001#32 = false ∧ f32Zero 0x80000000#32 = true ∧
    f32Zero 0x00000000#32 = true ∧ f32Sub 0x00000000#32 0x80000000#32 = some 0x00000000#32 ∧
    f32Sub 0x80000000#32 0x00000000#32 = some 0x80000000#32 := by decide
/-- A tie below an odd and below an even quotient; operands whose quotient and difference overflow; the least subnormal. -/
theorem witness_floats_round : 2 * roundDiv 3 2 * 2 = 2 * 3 + 2 ∧ 2 * 5 = 2 * roundDiv 5 2 * 2 + 2 ∧
    (f32Finite 0x7F7FFFFF#32 = true ∧ f32Finite 0x00000001#32 = true ∧ f32Zero 0x00000001#32 = false ∧
      f32Finite 0xFF7FFFFF#32 = true) ∧
    f32Div 0x7F7FFFFF#32 0x3F000000#32 = some 0x7F800000#32 ∧ f32Sub 0xFF7FFFFF#32 0x7F7FFFFF#32 = some 0xFF800000#32 ∧
    f32Units 0x00000001#32 = 1 ∧ f32Units 0x80000001#32 = -1 := by decide
theorem witness_reset_values : 3 < Config.test.nmodes ∧ 0 < Config.test.nmodes := by decide
/-- Valid at the ends of the ranges, and a record that breaks one constraint each. -/
theorem witness_invalid_configuration :
    configOk { Config.test with nmodes := 16, holdW := 1, capMax := 255, rbCap := 255, adcW := 16, adcSamples := 255 } = true ∧
    [{ Config.test with nmodes := 17 }, { Config.test with holdW := 0 }, { Config.test with rbCap := 256 },
     { Config.test with mTx := 4 }, { Config.test with gradient := 0x80000000#32 },
     { Config.test with refHigh := 2 }].map configOk = [false, false, false, false, false, false] := by decide
theorem witness_reset_invariant : configOk Config.test = true ∧ configOk smallCfg = true := by decide
theorem witness_invariant : BlockInv (pending .txrdy) ∧ (after (step (pending .txrdy))).isSome = true :=
  ⟨blockInv_reset Env.zero false false true, by decide⟩
/-- An answer of 13 bits for a converter of 12. -/
theorem witness_wide_code :
    let s : State :=
      { State.reset with
        env := { plainAnswers [true, true, true, true, true, true] true with adcResult := [4096] }
        pend := Pend.zero.put true .period }
    BlockInv s ∧ step s = .refused .adcResultTooWide :=
  ⟨blockInv_reset _ false true false, rfl⟩

end Sys2Proof.Tests
end

/-! The constraints of 00_scope R10 on the configuration record, and what an operation does under a record that breaks
one. -/

namespace Sys2Proof.Machine

/-- The greatest biased exponent is kept for the infinities and the NaNs (43 R226). -/
theorem f32Finite_iff (x : F32) : f32Finite x = true ↔ x.extractLsb' 23 8 ≠ 0xFF#8 :=
  decide_eq_true_iff.trans (BitVec.toNat_ne (y := 0xFF#8)).symm

/-- The zeros of binary32: exponent and fraction 0 leave the sign bit alone (43 R226). -/
theorem f32Zero_iff (x : F32) : f32Zero x = true ↔ x = 0x00000000#32 ∨ x = 0x80000000#32 := by
  simp only [f32Zero, f32Exp, f32Frac, decide_eq_true_eq, BitVec.extractLsb'_toNat, Nat.shiftRight_eq_div_pow,
    ← BitVec.toNat_inj, BitVec.toNat_ofNat]
  have hx := x.isLt
  omega

/-- The conjuncts of `configOk` as propositions; the two lemmas above say what its checks of binary32 mean in bits. -/
theorem configOk_iff (c : Config) : configOk c = true ↔
    2 ≤ c.nmodes ∧ c.nmodes ≤ 16 ∧ 1 ≤ c.holdW ∧ c.holdW ≤ 8 ∧ 1 ≤ c.capMax ∧ c.capMax ≤ 255 ∧ c.rbCap ≤ c.capMax ∧
    1 ≤ c.timeoutPolls ∧ c.mBus < c.nmodes ∧ c.mAdc < c.nmodes ∧ c.mTx < c.nmodes ∧
    1 ≤ c.adcSamples ∧ c.adcSamples ≤ 255 ∧ 1 ≤ c.adcW ∧ c.adcW ≤ 16 ∧
    f32Finite c.calTemp = true ∧ c.calCode < 2 ^ 16 ∧ f32Finite c.gradient = true ∧ f32Zero c.gradient = false ∧
    c.refLow ≠ c.refHigh := by
  simp only [configOk, Bool.and_eq_true, decide_eq_true_eq, Bool.not_eq_true', and_assoc]

/-- `RDSR` is the one operation with a path beside acceptance (a listed register in `FAULTED`, 60 R279); that path looks
at the record too. -/
theorem execRdsr_invalid {n : Byte} {s : State} (hc : configOk s.cfg = false) :
    execRdsr n s = .refused .invalidConfig := by
  unfold execRdsr
  split
  case h_1 => exact if_pos hc
  case h_2 => exact onCommand_invalid hc

/-- Acceptance looks at the record before anything else (93 I7). -/
theorem exec_invalid (i : Instr) {s : State} (hc : configOk s.cfg = false) :
    exec i s = .refused .invalidConfig := by
  cases i with
  | rdsr n => exact execRdsr_invalid hc
  | acq | rel | sel | enter | alloc | enq | deq | rdreg | wrreg => exact onCommand_invalid hc
  | subint | period | txrdy | edge => exact onEvent_invalid hc

/-- Settles O56: the check's clauses one by one, and acceptance refuses every operation. -/
theorem invalidConfigurationIsRefused : Obligations.InvalidConfigurationIsRefused := by
  refine ⟨fun c => ?_, fun i _ hc => exec_invalid i hc⟩
  have hz : f32Zero c.gradient = false ↔ c.gradient ≠ 0x00000000#32 ∧ c.gradient ≠ 0x80000000#32 := by
    rw [← Bool.not_eq_true, f32Zero_iff, not_or]
  rw [configOk_iff, f32Finite_iff, f32Finite_iff, hz, and_assoc]

end Sys2Proof.Machine

/-! Reading a status register: what a served `RDSR` of a listed number answers (44 R260, 20 R74). -/

namespace Sys2Proof.Machine

/-- Once accepted, `RDSR` of a listed number only answers (44 R260). -/
theorem rdsrRun_listed {s : State} {n v : Byte} (h : readSr s n = some v) :
    rdsrRun n s = .next (s.respond .ok v) := by
  simp only [rdsrRun, h]

/-- In a ready state, beside `execRdsr_faulted`: both contexts that serve `RDSR` give one answer (20 R74). -/
theorem exec_rdsr_listed_ready {s : State} {n v : Byte} (hs : Ready s) (h : readSr s n = some v) :
    exec (.rdsr n) s = .next (s.respond .ok v) :=
  (exec_rdsr_ready hs n).trans (rdsrRun_listed h)

/-- Settles O34, by the context: `MAIN` accepts the command, and `FAULTED` reads the register beside acceptance
(60 R279). `respond` appends the answer, status `Ok` over the byte, and is the whole change. -/
theorem rdsrReadsWithoutSideEffect : Obligations.RdsrReadsWithoutSideEffect := by
  intro n v s hc ht hx hv
  obtain hmain | hfaulted := hx
  · exact exec_rdsr_listed_ready ⟨hc, hmain, ht⟩ hv
  · exact execRdsr_faulted hc hfaulted hv

end Sys2Proof.Machine

/-! Command words: which are illegal (30_encoding R106), and what a step in `MAIN` with nothing pending does with the
word at the command port (R109, 60 R285 b). -/

namespace Sys2Proof

/-- The opcode map is injective onto the opcodes' bytes (R102). -/
theorem opcodeOf_eq_some_iff {b : Byte} {op : Opcode} : opcodeOf b = some op ↔ b = op.byte := by
  constructor
  · intro h
    by_contra hne
    unfold opcodeOf at h
    split_ifs at h <;> cases h <;> exact hne ‹_›
  · rintro rfl
    cases op <;> rfl

/-- The ten bytes R106 lists are the opcodes' bytes. -/
theorem mem_opcodeBytes_iff {b : Byte} :
    b ∈ [0x10#8, 0x11#8, 0x12#8, 0x13#8, 0x20#8, 0x21#8, 0x22#8, 0x30#8, 0x31#8, 0x40#8] ↔
      ∃ op : Opcode, b = op.byte := by
  constructor
  · intro h
    have hmap : b ∈ [.acq, .rel, .sel, .enter, .alloc, .enq, .deq, .rdreg, .wrreg, .rdsr].map Opcode.byte := h
    obtain ⟨op, -, hop⟩ := List.mem_map.mp hmap
    exact ⟨op, hop.symm⟩
  · rintro ⟨op, rfl⟩
    cases op <;> decide

/-- A reserved opcode is a byte outside the table (R102, R106). -/
theorem opcodeOf_eq_none_iff {b : Byte} : opcodeOf b = none ↔
    b ∉ [0x10#8, 0x11#8, 0x12#8, 0x13#8, 0x20#8, 0x21#8, 0x22#8, 0x30#8, 0x31#8, 0x40#8] := by
  simp only [Option.eq_none_iff_forall_ne_some, ne_eq, opcodeOf_eq_some_iff, mem_opcodeBytes_iff, not_exists]

/-- `WRREG` alone has a second operand (R102). -/
theorem Opcode.usesB_eq_false_iff (op : Opcode) : op.usesB = false ↔ op.byte ≠ 0x31#8 := by
  cases op <;> decide

/-- `SEL`, `ENTER` and `DEQ` have no operand (R102). -/
theorem Opcode.usesA_eq_false_iff (op : Opcode) : op.usesA = false ↔ op.byte ∈ [0x12#8, 0x13#8, 0x22#8] := by
  cases op <;> decide

theorem decodeCmd_reserved {w : CmdWord} (h : opcodeOf (fieldOp w) = none) : decodeCmd w = .error .reservedOpcode := by
  simp only [decodeCmd, h]

/-- With a defined opcode, decoding fails exactly at a field that must be zero and is not (R106). -/
theorem decodeCmd_rejects_iff {w : CmdWord} {op : Opcode} (h : opcodeOf (fieldOp w) = some op) :
    (∃ r, decodeCmd w = .error r) ↔
      fieldZ w ≠ 0#8 ∨ (op.usesB = false ∧ fieldB w ≠ 0#8) ∨ (op.usesA = false ∧ fieldA w ≠ 0#8) := by
  simp only [decodeCmd, h]
  split_ifs with hz hb ha
  · exact ⟨fun _ => .inl hz, fun _ => ⟨_, rfl⟩⟩
  · exact ⟨fun _ => .inr (.inl hb), fun _ => ⟨_, rfl⟩⟩
  · exact ⟨fun _ => .inr (.inr ha), fun _ => ⟨_, rfl⟩⟩
  · simp [hz, hb, ha]

/-- The illegal words by their fields alone (R106). -/
theorem decodeCmd_illegal_iff (w : CmdWord) : (∃ r, decodeCmd w = .error r) ↔
    (¬ (fieldOp w ∈ [0x10#8, 0x11#8, 0x12#8, 0x13#8, 0x20#8, 0x21#8, 0x22#8, 0x30#8, 0x31#8, 0x40#8]) ∨
      fieldZ w ≠ 0x00#8 ∨
      (fieldOp w ≠ 0x31#8 ∧ fieldB w ≠ 0x00#8) ∨
      (fieldOp w ∈ [0x12#8, 0x13#8, 0x22#8] ∧ fieldA w ≠ 0x00#8)) := by
  cases h : opcodeOf (fieldOp w) with
  | none => exact ⟨fun _ => .inl (opcodeOf_eq_none_iff.mp h), fun _ => ⟨_, decodeCmd_reserved h⟩⟩
  | some op =>
    have hop : fieldOp w = op.byte := opcodeOf_eq_some_iff.mp h
    rw [decodeCmd_rejects_iff h, or_iff_right (not_not.mpr (mem_opcodeBytes_iff.mpr ⟨op, hop⟩)), hop,
      op.usesB_eq_false_iff, op.usesA_eq_false_iff]

end Sys2Proof

namespace Sys2Proof.Machine

/-- With nothing running and nothing pending, a step in `MAIN` serves the command port (60 R285 b). -/
theorem step_serves_command {s : State} (hctx : s.environment.ctx = .main) (htask : s.environment.task = none)
    (hpend : s.environment.pend = Pend.zero) : step s = serveCommand s.environment :=
  serve_command hctx htask (pickEvent_zero hpend)

/-- An empty port leaves the state as it is. -/
theorem serveCommand_idle {s : State} (h : s.cmdIn = []) : serveCommand s = .next s := by
  simp only [serveCommand, h]

/-- An illegal word accepted in a ready state sets its flag and is answered `BadCommand` (R106). -/
theorem illegalWord_ready {s : State} (h : Ready s) :
    illegalWord s = .next { s with err := { s.err with badCmd := true }, rsp := s.rsp ++ [0x0700#16] } :=
  onCommand_ready (run := illegalRun) h

/-- Settles O3: the fields say which words are illegal, and a ready block with nothing pending accepts the one at its
port, where `illegalWord` runs. -/
theorem illegalWordsAreRefused : Obligations.IllegalWordsAreRefused := by
  refine ⟨decodeCmd_illegal_iff, ⟨.reservedOpcode, by decide⟩, ⟨.reservedOpcode, by decide⟩, ?_⟩
  rintro s u w rest rfl hready hpend hcmd ⟨r, hr⟩
  obtain ⟨hcfg, hctx, htask⟩ := hready
  calc step s = serveCommand s.environment := step_serves_command hctx htask hpend
    _ = illegalWord { s.environment with cmdIn := rest } := serveCommand_illegal hcmd hr
    _ = _ := illegalWord_ready ⟨hcfg, hctx, htask⟩

/-- Settles O6, by what stands at the port. -/
theorem stepRunsTheDecodedCommand : Obligations.StepRunsTheDecodedCommand := by
  intro s hctx htask hpend
  rw [step_serves_command hctx htask hpend]
  exact ⟨fun _ _ _ hcmd hdecode => serveCommand_legal hcmd hdecode, serveCommand_idle⟩

end Sys2Proof.Machine

/-! Operands out of range (30_encoding R107, 60 R277). -/

namespace Sys2Proof.Machine

theorem acqRun_bad_mode {m : Byte} {s : State} (h : modeInRange s.cfg m = false) : acqRun m s = .next s.badOperand :=
  if_pos h

theorem relRun_bad_mode {m : Byte} {s : State} (h : modeInRange s.cfg m = false) : relRun m s = .next s.badOperand :=
  if_pos h

theorem allocRun_bad_capacity {c : Byte} {s : State} (h : capInRange s.cfg c = false) :
    allocRun c s = .next s.badOperand :=
  if_pos h

/-- Beside `rdsrRun_listed`: an unlisted number is an operand out of range (44 R260 c). -/
theorem rdsrRun_unlisted {n : Byte} {s : State} (h : srListed s.cfg n = false) : rdsrRun n s = .next s.badOperand := by
  simp only [rdsrRun, readSr_eq_none.mpr h]

/-- Only the four commands with a range check can be ill formed, and each checks before it does anything else (R109). -/
theorem exec_illFormed_ready {i : Instr} {s : State} (hs : Ready s) (h : i.wellFormed s.cfg = false) :
    exec i s = .next s.badOperand := by
  cases i with
  | acq m => exact (exec_acq_ready hs m).trans (acqRun_bad_mode h)
  | rel m => exact (exec_rel_ready hs m).trans (relRun_bad_mode h)
  | alloc c => exact (exec_alloc_ready hs c).trans (allocRun_bad_capacity h)
  | rdsr n => exact (exec_rdsr_ready hs n).trans (rdsrRun_unlisted h)
  | sel | enter | enq | deq | rdreg | wrreg | subint | period | txrdy | edge => cases h

/-- The listed numbers: the hold counters, and the fixed ones of `srListed_fixed` (10_state R46). -/
theorem srListed_iff (c : Config) (n : Byte) : srListed c n = true ↔ (n.toNat < c.nmodes ∨
    n ∈ [0x10#8, 0x11#8, 0x12#8, 0x13#8, 0x20#8, 0x21#8, 0x22#8, 0x23#8, 0x24#8, 0x25#8,
      0x30#8, 0x31#8, 0x32#8, 0x33#8, 0x34#8]) := by
  rw [← srListed_fixed]
  simp only [srListed, Bool.or_eq_true, Bool.and_eq_true, decide_eq_true_eq, or_assoc]

/-- Settles O5: the refusal of an ill-formed operand, whose exact effect is `badOperand`, and the ranges check by
check. -/
theorem operandOutOfRangeIsRefused : Obligations.OperandOutOfRangeIsRefused := by
  refine ⟨fun i s hs h => exec_illFormed_ready hs h, fun c a v => ?_⟩
  have hmode : modeInRange c a = true ↔ a.toNat < c.nmodes := decide_eq_true_iff
  have hcap : capInRange c a = true ↔ a.toNat ≤ c.capMax := decide_eq_true_iff
  exact ⟨hmode, hmode, hcap, srListed_iff c a, rfl, rfl, rfl⟩

end Sys2Proof.Machine

/-! The frames of the two exchanges (30_encoding R116). -/

namespace Sys2Proof.Machine

/-- Settles O27: the model's frames are the table's rows, symbol by symbol. -/
theorem framesAreTheSpecs : Obligations.FramesAreTheSpecs :=
  fun _ _ _ => ⟨rfl, rfl⟩

end Sys2Proof.Machine

/-! The sleep arbiter: the selection (40_sleep_arbiter R131), the laws that follow from it (R135), the commands `ACQ`,
`REL`, `SEL` and `ENTER` in a ready state (R132 to R136), and the end of a park (R137). -/

namespace Sys2Proof.Machine

/-! ### The shallowest held mode and the selection -/

/-- `min(B)` is undefined exactly when no mode is held (R131). -/
theorem firstHeld_eq_none_iff {n : Nat} {h : List Nat} : firstHeld n h = none ↔ ∀ k < n, h.getD k 0 = 0 := by
  simp only [firstHeld, List.findIdx?_eq_none_iff, decide_eq_false_iff_not, not_lt, Nat.le_zero, List.getD_eq_getElem?_getD]
  constructor
  · intro hnone k hk
    by_cases hlen : k < h.length
    · rw [List.getElem?_eq_getElem hlen, Option.getD_some]
      exact hnone _ (List.mem_take_iff_getElem.mpr ⟨k, lt_min hk hlen, rfl⟩)
    · rw [List.getElem?_eq_none (not_lt.mp hlen), Option.getD_none]
  · intro hzero c hc
    obtain ⟨k, hk, rfl⟩ := List.mem_take_iff_getElem.mp hc
    obtain ⟨hkn, hlen⟩ := lt_min_iff.mp hk
    simpa [List.getElem?_eq_getElem hlen] using hzero k hkn

/-- `min(B)` is the held mode with no held mode above it (R131). -/
theorem firstHeld_eq_some_iff {n j : Nat} {h : List Nat} :
    firstHeld n h = some j ↔ j < n ∧ 0 < h.getD j 0 ∧ ∀ k < j, h.getD k 0 = 0 := by
  simp only [firstHeld, List.findIdx?_eq_some_iff_getElem, List.length_take, List.getElem_take, decide_eq_true_eq, not_lt,
    Nat.le_zero, List.getD_eq_getElem?_getD]
  constructor
  · rintro ⟨hj, hpos, hzero⟩
    obtain ⟨hjn, hlen⟩ := lt_min_iff.mp hj
    refine ⟨hjn, by simpa [hlen] using hpos, fun k hk => ?_⟩
    simpa [hk.trans hlen] using hzero k hk
  · rintro ⟨hjn, hpos, hzero⟩
    have hlen : j < h.length := by
      by_contra hout
      simp [List.getElem?_eq_none (not_lt.mp hout)] at hpos
    refine ⟨lt_min hjn hlen, by simpa [hlen] using hpos, fun k hk => ?_⟩
    simpa [hk.trans hlen] using hzero k hk

theorem sel_of_firstHeld_none {n : Nat} {h : List Nat} (hf : firstHeld n h = none) : sel n h = some (n - 1) := by
  simp only [sel, hf]

theorem sel_of_firstHeld_some {n k : Nat} {h : List Nat} (hf : firstHeld n h = some k) :
    sel n h = if k = 0 then none else some (k - 1) := by
  unfold sel
  rw [hf]
  cases k <;> rfl

/-- A mode the selection allows is one that no held mode blocks, and every such mode is allowed (R131, R135 b). -/
theorem le_sel_iff {n m r : Nat} {h : List Nat} (hs : sel n h = some r) (hm : m < n) :
    m ≤ r ↔ ¬ ∃ k, k ≤ m ∧ 0 < h.getD k 0 := by
  cases hf : firstHeld n h with
  | none =>
    have hzero := firstHeld_eq_none_iff.mp hf
    rw [sel_of_firstHeld_none hf] at hs
    cases hs
    refine ⟨fun _ ⟨k, hk, hpos⟩ => ?_, fun _ => Nat.le_sub_one_of_lt hm⟩
    exact hpos.ne' (hzero k (hk.trans_lt hm))
  | some j =>
    obtain ⟨-, hpos, hzero⟩ := firstHeld_eq_some_iff.mp hf
    rw [sel_of_firstHeld_some hf, Option.ite_none_left_eq_some, Option.some.injEq] at hs
    obtain ⟨hj, rfl⟩ := hs
    constructor
    · rintro hmj ⟨k, hk, hheld⟩
      exact hheld.ne' (hzero k (by omega))
    · intro hfree
      by_contra hlt
      exact hfree ⟨j, by omega, hpos⟩

/-- Settles O18: each clause names the shallowest held mode, and the last is `le_sel_iff`. -/
theorem selectionFollowsTheShallowestHold : Obligations.SelectionFollowsTheShallowestHold := by
  intro n h _ _
  refine ⟨fun hzero => sel_of_firstHeld_none (firstHeld_eq_none_iff.mpr hzero), fun k hk hpos hzero => ?_,
    fun m r hs hm => le_sel_iff hs hm⟩
  exact sel_of_firstHeld_some (firstHeld_eq_some_iff.mpr ⟨hk, hpos, hzero⟩)

/-! ### The laws of the arbiter -/

/-- An acquire that succeeds can be released, and the table is then as before (R135 a). -/
theorem release_acquire {m : Nat} {s s1 : State} (hm : m < s.hold.length) (ha : acquire m s = .ok s1) :
    release m s1 = .ok s := by
  obtain ⟨-, hfatal⟩ | ⟨-, hok⟩ := acquire_cases m s
  · rw [hfatal] at ha
    cases ha
  · rw [hok] at ha
    cases ha
    have hcount : (s.setHold m (s.holdOf m + 1)).holdOf m = s.holdOf m + 1 := State.holdOf_setHold_same _ hm
    have hback : s.hold.set m (s.holdOf m) = s.hold := by
      simp [State.holdOf, hm]
    rw [release_ok (by omega), hcount, Nat.add_sub_cancel, State.setHold_hold, List.set_set, hback]
    rfl

/-- Only which counters are positive counts (R135 c). -/
theorem sel_congr {n : Nat} {h h' : List Nat} (hpos : ∀ k, 0 < h.getD k 0 ↔ 0 < h'.getD k 0) : sel n h = sel n h' := by
  have hzero : ∀ k, h.getD k 0 = 0 ↔ h'.getD k 0 = 0 := fun k => by
    simpa only [Nat.pos_iff_ne_zero, not_iff_not] using hpos k
  have hfirst : firstHeld n h = firstHeld n h' :=
    Option.ext fun j => by simp only [firstHeld_eq_some_iff, hpos, hzero]
  simp only [sel, hfirst]

/-- Settles O19: a release undoes an acquire; a held mode is blocked, so by `le_sel_iff` it is not allowed; `sel_congr`. -/
theorem arbiterLaws : Obligations.ArbiterLaws := by
  refine ⟨fun m s s1 hm ha => ⟨s, release_acquire hm ha, rfl, rfl⟩, fun n h r k hs hk hpos => ?_,
    fun n h h' _ hpos => sel_congr hpos⟩
  by_contra hle
  exact (le_sel_iff hs hk).mp (not_lt.mp hle) ⟨k, le_rfl, hpos⟩

/-! ### `ACQ` and `REL` -/

/-- Where nothing waits, a fatal error changes the flag and the context alone (60 R271). -/
theorem State.raiseFatal_idle {s : State} (ht : s.task = none) (k : FatalKind) :
    s.raiseFatal k = { s with fault := s.fault.set k, ctx := .faulted } := by
  rw [State.raiseFatal, ← ht]

theorem modeInRange_ne_false {c : Config} {m : Byte} (hm : m.toNat < c.nmodes) : ¬ modeInRange c m = false := by
  simpa [modeInRange] using hm

section Holds
variable {m : Byte} {s : State} (hm : m.toNat < s.cfg.nmodes)
include hm

/-- Below the top of the counter, `ACQ` adds a hold (R132). -/
theorem acqRun_ok (h : s.holdOf m.toNat ≠ holdTop s.cfg) :
    acqRun m s = .next ((s.setHold m.toNat (s.holdOf m.toNat + 1)).respond .ok 0x00#8) := by
  rw [acqRun, if_neg (modeInRange_ne_false hm), acquire_ok h]
  rfl

/-- At the top of the counter, `ACQ` is fatal (R132, 60 R276). -/
theorem acqRun_overflow (h : s.holdOf m.toNat = holdTop s.cfg) :
    acqRun m s = .next ((s.raiseFatal .holdOverflow).respond .holdOverflow 0x00#8) := by
  rw [acqRun, if_neg (modeInRange_ne_false hm), acquire, if_pos h]

/-- Above zero, `REL` takes a hold (R133). -/
theorem relRun_ok (h : s.holdOf m.toNat ≠ 0) :
    relRun m s = .next ((s.setHold m.toNat (s.holdOf m.toNat - 1)).respond .ok 0x00#8) := by
  rw [relRun, if_neg (modeInRange_ne_false hm), release_ok h]
  rfl

/-- At zero, `REL` is fatal (R133, 60 R275). -/
theorem relRun_mismatch (h : s.holdOf m.toNat = 0) :
    relRun m s = .next ((s.raiseFatal .sleepHoldMismatch).respond .sleepHoldMismatch 0x00#8) := by
  rw [relRun, if_neg (modeInRange_ne_false hm), release, if_pos h]

end Holds

/-- Settles O15: `setHold` and `respond` are the whole change. -/
theorem acqAddsOneHold : Obligations.AcqAddsOneHold :=
  fun m _ hs hm hbelow => (exec_acq_ready hs m).trans (acqRun_ok hm hbelow)

/-- Settles O16: `setHold` and `respond` are the whole change. -/
theorem relTakesOneHold : Obligations.RelTakesOneHold :=
  fun m _ hs hm hheld => (exec_rel_ready hs m).trans (relRun_ok hm hheld)

/-- Settles O17, each command at its end of the counter. A ready block has no waiting operation, so none is dropped. -/
theorem holdErrorsAreFatal : Obligations.HoldErrorsAreFatal := by
  intro m s hs hm
  have ⟨_, _, htask⟩ := hs
  constructor
  · intro htop
    rw [exec_acq_ready hs, acqRun_overflow hm htop, State.raiseFatal_idle htask]
    rfl
  · intro hzero
    rw [exec_rel_ready hs, relRun_mismatch hm hzero, State.raiseFatal_idle htask]
    rfl

/-! ### `SEL` and `ENTER` -/

/-- Settles O20, by whether a mode is selected: the data byte is its index, or 0xFF. -/
theorem selAnswersTheSelection : Obligations.SelAnswersTheSelection := by
  intro s hs
  rw [exec_sel_ready hs, State.selected]
  cases sel s.cfg.nmodes s.hold <;> rfl

/-- With a mode selected and nothing pending the block parks, the response withheld (R136). -/
theorem enterRun_parks {s : State} {r : Nat} (hsel : s.selected = some r) (hp : s.pend.any = false) :
    enterRun s = .next ((s.emit (.park r)).setCtx (.parked r)) := by
  simp only [enterRun, hsel, hp, Bool.false_eq_true, if_false]

/-- With a mode selected and something pending the park ends at once (R136 b). -/
theorem enterRun_wakes {s : State} {r : Nat} (hsel : s.selected = some r) (hp : s.pend.any = true) :
    enterRun s = .next (((s.emit (.park r)).setCtx (.parked r)).wakeFrom r) := by
  simp only [enterRun, hsel, hp, if_true]

/-- With mode 0 held the block does not park (R136). -/
theorem enterRun_none {s : State} (hsel : s.selected = none) :
    enterRun s = .next ((s.emit .parkNone).respond .ok 0xFF#8) := by
  simp only [enterRun, hsel]

/-- The end of a park, cell by cell (R137). -/
theorem State.wakeFrom_eq (s : State) (r : Nat) : s.wakeFrom r =
    { s with ctx := .main, trace := s.trace ++ [.wake], rsp := s.rsp ++ [0x00#8 ++ BitVec.ofNat 8 r] } := by
  simp only [State.wakeFrom, State.emit, State.setCtx, State.respond, rspWord, Status.code]

/-- A park that ends at once in `MAIN` leaves its two actions and the response. -/
theorem State.wakeFrom_park {s : State} (hctx : s.ctx = .main) (r : Nat) :
    ((s.emit (.park r)).setCtx (.parked r)).wakeFrom r =
      { s with trace := s.trace ++ [.park r] ++ [.wake], rsp := s.rsp ++ [0x00#8 ++ BitVec.ofNat 8 r] } := by
  simp only [State.wakeFrom_eq, State.emit, State.setCtx, hctx]

/-- Settles O21, by the selection and by what is pending. -/
theorem enterParksInTheSelectedMode : Obligations.EnterParksInTheSelectedMode := by
  intro s hs
  have ⟨_, hctx, _⟩ := hs
  rw [exec_enter_ready hs]
  refine ⟨fun r hsel hp => enterRun_parks hsel hp, fun r hsel hp => ?_, fun hsel => enterRun_none hsel⟩
  rw [enterRun_wakes hsel hp, State.wakeFrom_park hctx]

/-! ### The end of a park -/

/-- Settles O11: parked, the block only looks whether something is pending, and `wakeFrom` is the whole waking. -/
theorem parkEndsOnAPendingEvent : Obligations.ParkEndsOnAPendingEvent := by
  intro s m hctx
  rw [step, serve_parked hctx, State.wakeFrom_eq]

end Sys2Proof.Machine

/-! The byte ring: what its procedures do under the ring invariant (41_ring_fifo R153, 10_state R35, R36), the commands
`ALLOC`, `ENQ` and `DEQ` in a ready state (R150 to R152), and the laws of the queue (R154). -/

namespace Sys2Proof.Machine

/-! ### Which addresses hold a byte -/

theorem Memory.isSome_read_write {m : Memory} {a b : Nat} {v : Byte} :
    (Memory.read (Memory.write m a v) b).isSome = true ↔ b = a ∨ (Memory.read m b).isSome = true := by
  by_cases h : b = a
  · subst h
    simp
  · simp [Memory.read_write_other v h, h]

theorem Memory.isSome_read_erase {m : Memory} {a b : Nat} :
    (Memory.read (Memory.erase m a) b).isSome = true ↔ b ≠ a ∧ (Memory.read m b).isSome = true := by
  by_cases h : b = a
  · subst h
    simp
  · simp [Memory.read_erase_other h, h]

/-! ### Positions of the queue content -/

/-- Counting from the next cursor is counting one further from this one. -/
theorem ring_position_succ (tail k cap : Nat) : ((tail + 1) % cap + k) % cap = (tail + (k + 1)) % cap := by
  rw [Nat.mod_add_mod, Nat.add_assoc, Nat.add_comm 1 k]

/-- The content depends on the bytes at its own positions alone. -/
theorem queueFrom_congr {m m' : Memory} {cap tail n : Nat} (ht : tail < cap)
    (h : ∀ k < n, Memory.read m ((tail + k) % cap) = Memory.read m' ((tail + k) % cap)) :
    queueFrom m cap tail n = queueFrom m' cap tail n := by
  rw [queueFrom_eq_map _ _ _ _ ht, queueFrom_eq_map _ _ _ _ ht]
  exact List.map_congr_left fun k hk => h k (List.mem_range.mp hk)

/-- The content, one position longer. -/
theorem queueFrom_succ_last {m : Memory} {cap tail n : Nat} (ht : tail < cap) :
    queueFrom m cap tail (n + 1) = queueFrom m cap tail n ++ [Memory.read m ((tail + n) % cap)] := by
  rw [queueFrom_eq_map _ _ _ _ ht, queueFrom_eq_map _ _ _ _ ht, List.range_succ, List.map_append, List.map_singleton]

theorem length_queueFrom (m : Memory) (cap n : Nat) : ∀ tail, (queueFrom m cap tail n).length = n := by
  induction n with
  | zero => exact fun _ => rfl
  | succ n ih => exact fun tail => congrArg (· + 1) (ih _)

theorem State.length_queue (s : State) : s.queue.length = s.rbCount.toNat :=
  length_queueFrom ..

theorem State.queue_eq_nil_iff {s : State} : s.queue = [] ↔ s.rbCount = 0#8 := by
  rw [← List.length_eq_zero_iff, s.length_queue, ← BitVec.toNat_inj, BitVec.toNat_zero]

/-! ### The two successful outcomes -/

/-- The state after `b` is stored at the head (R153). -/
def State.enqueued (s : State) (b : Byte) : State :=
  { s with
    rbMem := Memory.write s.rbMem s.rbHead.toNat b
    rbHead := advance s.rbHead s.rbCap
    rbCount := s.rbCount + 1#8 }

/-- The state after the byte at the tail is taken (R153). -/
def State.dequeued (s : State) : State :=
  { s with
    rbMem := Memory.erase s.rbMem s.rbTail.toNat
    rbTail := advance s.rbTail s.rbCap
    rbCount := s.rbCount - 1#8 }

@[simp] theorem State.enqueued_rbCap (s : State) (b : Byte) : (s.enqueued b).rbCap = s.rbCap := rfl
@[simp] theorem State.dequeued_rbCap (s : State) : s.dequeued.rbCap = s.rbCap := rfl

theorem rbEnqueue_full (b : Byte) {s : State} (h : s.rbCount = s.rbCap) :
    rbEnqueue b s = .full (s.raiseErr .bufFull) :=
  if_pos h

theorem rbDequeue_empty {s : State} (h : s.rbCount = 0#8) : rbDequeue s = .empty (s.raiseErr .bufEmpty) :=
  if_pos h

/-- A count below a byte grows by one without overflow (R155). -/
theorem toNat_count_succ {c cap : Byte} (h : c.toNat < cap.toNat) : (c + 1#8).toNat = c.toNat + 1 := by
  bv_omega

/-- A positive count shrinks by one (R155). -/
theorem toNat_count_pred {c : Byte} (h : 0 < c.toNat) : (c - 1#8).toNat = c.toNat - 1 := by
  bv_omega

/-! ### The ring invariant -/

section Invariant
variable {s : State} (hr : RingOk s)
include hr

/-- Both cursors point into the storage in use, which lies inside the storage built (20_memory R71, 00_scope R14). -/
theorem RingOk.cursorsOk (h : 0 < s.rbCap.toNat) : cursorOk s s.rbHead = true ∧ cursorOk s s.rbTail = true := by
  obtain ⟨hhead, htail, -⟩ := hr.cursors h
  simp [cursorOk, hhead, htail, hhead.trans_le hr.cap, htail.trans_le hr.cap]

/-- The oldest byte stands at the tail. -/
theorem RingOk.read_tail (h : 0 < s.rbCount.toNat) : ∃ v, Memory.read s.rbMem s.rbTail.toNat = some v := by
  obtain ⟨-, htail, -⟩ := hr.cursors (h.trans_le hr.count)
  exact Option.isSome_iff_exists.mp ((hr.content _).mpr ⟨0, h, (Nat.mod_eq_of_lt htail).symm⟩)

/-- A ring that is not full has room. -/
theorem RingOk.count_lt_cap (h : s.rbCount ≠ s.rbCap) : s.rbCount.toNat < s.rbCap.toNat :=
  lt_of_le_of_ne hr.count fun he => h (BitVec.eq_of_toNat_eq he)

/-- With room, an enqueue stores its byte. -/
theorem RingOk.rbEnqueue_eq (b : Byte) (h : s.rbCount.toNat < s.rbCap.toNat) :
    rbEnqueue b s = .stored (s.enqueued b) := by
  obtain ⟨hfull, -⟩ | ⟨-, hout, -⟩ | ⟨-, -, hstored⟩ := rbEnqueue_cases b s
  · exact absurd (congrArg BitVec.toNat hfull) h.ne
  · rw [(hr.cursorsOk (Nat.zero_lt_of_lt h)).1] at hout
    cases hout
  · exact hstored

/-- With a byte there, a dequeue takes the one at the tail. -/
theorem RingOk.rbDequeue_eq (h : 0 < s.rbCount.toNat) :
    ∃ v, Memory.read s.rbMem s.rbTail.toNat = some v ∧ rbDequeue s = .taken v s.dequeued := by
  obtain ⟨v, hv⟩ := hr.read_tail h
  obtain ⟨hempty, -⟩ | ⟨-, hout, -⟩ | ⟨-, -, hnone, -⟩ | ⟨-, -, w, hw, htaken⟩ := rbDequeue_cases s
  · simp [hempty] at h
  · rw [(hr.cursorsOk (h.trans_le hr.count)).2] at hout
    cases hout
  · rw [hv] at hnone
    cases hnone
  · exact ⟨w, hw, htaken⟩

/-- An enqueue that succeeds had room, and `enqueued` is its effect. -/
theorem RingOk.of_rbEnqueue_stored {b : Byte} {t : State} (h : rbEnqueue b s = .stored t) :
    s.rbCount.toNat < s.rbCap.toNat ∧ t = s.enqueued b := by
  by_cases hfull : s.rbCount = s.rbCap
  · rw [rbEnqueue_full b hfull] at h
    cases h
  · have hroom := hr.count_lt_cap hfull
    rw [hr.rbEnqueue_eq b hroom] at h
    cases h
    exact ⟨hroom, rfl⟩

/-- A dequeue that succeeds found the byte at the tail, and `dequeued` is its effect. -/
theorem RingOk.of_rbDequeue_taken {v : Byte} {t : State} (h : rbDequeue s = .taken v t) :
    0 < s.rbCount.toNat ∧ Memory.read s.rbMem s.rbTail.toNat = some v ∧ t = s.dequeued := by
  obtain hzero | hpos := s.rbCount.toNat.eq_zero_or_pos
  · rw [rbDequeue_empty (BitVec.eq_of_toNat_eq hzero)] at h
    cases h
  · obtain ⟨w, hw, htaken⟩ := hr.rbDequeue_eq hpos
    rw [htaken] at h
    cases h
    exact ⟨hpos, hw, rfl⟩

/-- The head is the position behind the content, so an enqueue makes the storage hold one position more. -/
theorem RingOk.enqueued (b : Byte) (h : s.rbCount.toNat < s.rbCap.toNat) : RingOk (s.enqueued b) := by
  have hcap : 0 < s.rbCap.toNat := Nat.zero_lt_of_lt h
  obtain ⟨-, htail, hhead⟩ := hr.cursors hcap
  have hcount : (s.enqueued b).rbCount.toNat = s.rbCount.toNat + 1 := toNat_count_succ h
  refine ⟨hcount ▸ h, hr.cap, fun _ => ?_, fun h0 => absurd h0 hcap.ne', Memory.wf_write _ _ hr.canonical, fun a => ?_⟩
  · have hnext : (s.enqueued b).rbHead.toNat = (s.rbHead.toNat + 1) % s.rbCap.toNat := toNat_advance _ hcap
    rw [hnext, hcount]
    refine ⟨Nat.mod_lt _ hcap, htail, ?_⟩
    rw [hhead, Nat.mod_add_mod, Nat.add_assoc]
    rfl
  · rw [hcount]
    calc (Memory.read (Memory.write s.rbMem s.rbHead.toNat b) a).isSome = true
      _ ↔ a = s.rbHead.toNat ∨ ∃ k, k < s.rbCount.toNat ∧ a = (s.rbTail.toNat + k) % s.rbCap.toNat := by
        rw [Memory.isSome_read_write, hr.content]
      _ ↔ ∃ k, k < s.rbCount.toNat + 1 ∧ a = (s.rbTail.toNat + k) % s.rbCap.toNat := by
        rw [Nat.exists_lt_succ_right, hhead, or_comm]

/-- An enqueue writes at none of the positions of the content (R154 FIFO). -/
theorem RingOk.queue_enqueued (b : Byte) (h : s.rbCount.toNat < s.rbCap.toNat) :
    (s.enqueued b).queue = s.queue ++ [some b] := by
  obtain ⟨-, htail, hhead⟩ := hr.cursors (Nat.zero_lt_of_lt h)
  have hother : ∀ k < s.rbCount.toNat, (s.rbTail.toNat + k) % s.rbCap.toNat ≠ s.rbHead.toNat := fun k hk he =>
    hk.ne (ring_position_inj (hk.trans h) h (he.trans hhead))
  calc (s.enqueued b).queue
    _ = queueFrom (Memory.write s.rbMem s.rbHead.toNat b) s.rbCap.toNat s.rbTail.toNat (s.rbCount.toNat + 1) :=
      congrArg (queueFrom _ _ _) (toNat_count_succ h)
    _ = queueFrom (Memory.write s.rbMem s.rbHead.toNat b) s.rbCap.toNat s.rbTail.toNat s.rbCount.toNat ++ [some b] := by
      rw [queueFrom_succ_last htail, ← hhead, Memory.read_write_same]
    _ = s.queue ++ [some b] := by
      rw [queueFrom_congr htail fun k hk => Memory.read_write_other b (hother k hk)]
      rfl

/-- Within the content, only the first position is the tail. -/
theorem RingOk.position_succ_ne_tail {k : Nat} (h : k + 1 < s.rbCount.toNat) :
    (s.rbTail.toNat + (k + 1)) % s.rbCap.toNat ≠ s.rbTail.toNat := by
  have hcap : k + 1 < s.rbCap.toNat := h.trans_le hr.count
  obtain ⟨-, htail, -⟩ := hr.cursors (Nat.zero_lt_of_lt hcap)
  intro he
  have hzero : k + 1 = 0 :=
    ring_position_inj hcap (Nat.zero_lt_of_lt hcap) (he.trans (Nat.mod_eq_of_lt htail).symm)
  omega

/-- A dequeue drops the first position, which is at no other position's address, so the storage holds the rest. -/
theorem RingOk.dequeued (h : 0 < s.rbCount.toNat) : RingOk s.dequeued := by
  have hcap : 0 < s.rbCap.toNat := h.trans_le hr.count
  obtain ⟨hheadlt, htail, hhead⟩ := hr.cursors hcap
  have hcount : s.dequeued.rbCount.toNat = s.rbCount.toNat - 1 := toNat_count_pred h
  have hnext : s.dequeued.rbTail.toNat = (s.rbTail.toNat + 1) % s.rbCap.toNat := toNat_advance _ hcap
  refine ⟨hcount ▸ (Nat.sub_le _ _).trans hr.count, hr.cap, fun _ => ?_, fun h0 => absurd h0 hcap.ne',
    Memory.wf_erase _ hr.canonical, fun a => ?_⟩
  · rw [hnext, hcount]
    refine ⟨hheadlt, Nat.mod_lt _ hcap, ?_⟩
    exact hhead.trans (by rw [← Nat.sub_add_cancel h]; exact (ring_position_succ ..).symm)
  · rw [hnext, hcount]
    simp only [State.dequeued_rbCap, ring_position_succ]
    refine Memory.isSome_read_erase.trans ((and_congr_right' (hr.content a)).trans ⟨?_, ?_⟩)
    · rintro ⟨hne, k, hk, rfl⟩
      cases k with
      | zero => exact absurd (Nat.mod_eq_of_lt htail) hne
      | succ k => exact ⟨k, Nat.lt_sub_of_add_lt hk, rfl⟩
    · rintro ⟨k, hk, rfl⟩
      have hk1 : k + 1 < s.rbCount.toNat := Nat.add_lt_of_lt_sub hk
      exact ⟨hr.position_succ_ne_tail hk1, k + 1, hk1, rfl⟩

/-- A dequeue erases at none of the positions that remain (R154 FIFO). -/
theorem RingOk.queue_eq_cons {v : Byte} (h : 0 < s.rbCount.toNat)
    (hv : Memory.read s.rbMem s.rbTail.toNat = some v) : s.queue = some v :: s.dequeued.queue := by
  have hcap : 0 < s.rbCap.toNat := h.trans_le hr.count
  have hrest : queueFrom s.rbMem s.rbCap.toNat ((s.rbTail.toNat + 1) % s.rbCap.toNat) (s.rbCount.toNat - 1) =
      queueFrom (Memory.erase s.rbMem s.rbTail.toNat) s.rbCap.toNat ((s.rbTail.toNat + 1) % s.rbCap.toNat)
        (s.rbCount.toNat - 1) := by
    refine queueFrom_congr (Nat.mod_lt _ hcap) fun k hk => (Memory.read_erase_other ?_).symm
    rw [ring_position_succ]
    exact hr.position_succ_ne_tail (Nat.add_lt_of_lt_sub hk)
  calc s.queue
    _ = queueFrom s.rbMem s.rbCap.toNat s.rbTail.toNat (s.rbCount.toNat - 1 + 1) := by
      rw [Nat.sub_add_cancel h, State.queue]
    _ = some v :: queueFrom (Memory.erase s.rbMem s.rbTail.toNat) s.rbCap.toNat
          ((s.rbTail.toNat + 1) % s.rbCap.toNat) (s.rbCount.toNat - 1) := by
      rw [queueFrom, hv, hrest]
    _ = some v :: s.dequeued.queue := by
      rw [← toNat_advance _ hcap, ← toNat_count_pred h]
      rfl

end Invariant

/-- Settles O25: a successful outcome is `enqueued` or `dequeued`, and each has its lemma for the invariant and for the
content. -/
theorem ringIsAQueue : Obligations.RingIsAQueue := by
  refine fun s hr => ⟨fun b t ht => ?_, fun v t ht => ?_⟩
  · obtain ⟨hroom, rfl⟩ := hr.of_rbEnqueue_stored ht
    exact ⟨hr.enqueued b hroom, hr.queue_enqueued b hroom⟩
  · obtain ⟨hpos, hv, rfl⟩ := hr.of_rbDequeue_taken ht
    exact ⟨hr.dequeued hpos, hr.queue_eq_cons hpos hv⟩

/-! ### The round trip -/

/-- Bytes that fit are all stored, behind the content. -/
theorem RingOk.enqueueBytes_fits (bytes : List Byte) : ∀ {s : State}, RingOk s →
    s.rbCount.toNat + bytes.length ≤ s.rbCap.toNat →
    ∃ t, enqueueBytes bytes s = some t ∧ RingOk t ∧ t.queue = s.queue ++ bytes.map some := by
  induction bytes with
  | nil => exact fun {s} hr _ => ⟨s, rfl, hr, (List.append_nil _).symm⟩
  | cons b rest ih =>
    intro s hr hfit
    rw [List.length_cons] at hfit
    have hroom : s.rbCount.toNat < s.rbCap.toNat := by omega
    have hcount : (s.enqueued b).rbCount.toNat = s.rbCount.toNat + 1 := toNat_count_succ hroom
    obtain ⟨t, ht, hrt, hq⟩ := ih (hr.enqueued b hroom) (by rw [hcount, State.enqueued_rbCap]; omega)
    refine ⟨t, ?_, hrt, ?_⟩
    · rw [enqueueBytes, hr.rbEnqueue_eq b hroom]
      exact ht
    · rw [hq, hr.queue_enqueued b hroom, List.append_assoc]
      rfl

/-- Bytes at the front of the content come out in order, and what is behind them remains. -/
theorem RingOk.dequeueBytes_front (bytes : List Byte) (rest : List (Option Byte)) : ∀ {s : State}, RingOk s →
    s.queue = bytes.map some ++ rest →
    ∃ t, dequeueBytes bytes.length s = some (bytes, t) ∧ t.queue = rest := by
  induction bytes with
  | nil => exact fun {s} _ hq => ⟨s, rfl, hq⟩
  | cons b bytes ih =>
    intro s hr hq
    rw [List.map_cons, List.cons_append] at hq
    have hpos : 0 < s.rbCount.toNat := by
      rw [← s.length_queue, hq]
      exact Nat.succ_pos _
    obtain ⟨v, hv, htaken⟩ := hr.rbDequeue_eq hpos
    obtain ⟨hvb, hqrest⟩ := List.cons.inj ((hr.queue_eq_cons hpos hv).symm.trans hq)
    cases hvb
    obtain ⟨t, ht, hqt⟩ := ih (hr.dequeued hpos) hqrest
    refine ⟨t, ?_, hqt⟩
    simp only [List.length_cons, dequeueBytes, htaken, ht]

/-- Settles O26: the bytes become the whole content, and the content comes out in order. -/
theorem ringRoundTrip : Obligations.RingRoundTrip := by
  intro s bytes hr hempty hfit
  have hroom : s.rbCount.toNat + bytes.length ≤ s.rbCap.toNat := by simpa [hempty] using hfit
  obtain ⟨s1, hs1, hr1, hq1⟩ := hr.enqueueBytes_fits bytes hroom
  have hfull : s1.queue = bytes.map some ++ [] := by
    rw [hq1, State.queue_eq_nil_iff.mpr hempty, List.nil_append, List.append_nil]
  obtain ⟨s2, hs2, hq2⟩ := hr1.dequeueBytes_front bytes [] hfull
  exact ⟨s1, s2, hs1, hs2, State.queue_eq_nil_iff.mp hq2, hq2⟩

/-! ### `ALLOC`, `ENQ` and `DEQ` -/

/-- Settles O22: a capacity in range passes the check, and `rbAllocate` and `respond` are the whole change. -/
theorem allocEmptiesTheRing : Obligations.AllocEmptiesTheRing := by
  intro c s hs hc
  have hrange : ¬ capInRange s.cfg c = false := by simpa [capInRange] using hc
  rw [exec_alloc_ready hs, allocRun, if_neg hrange]
  rfl

/-- The effect of an enqueue with the new count as a number (R155). -/
theorem State.enqueued_eq (s : State) (b : Byte) : s.enqueued b =
    { s with
      rbMem := Memory.write s.rbMem s.rbHead.toNat b
      rbHead := BitVec.ofNat 8 ((s.rbHead.toNat + 1) % s.rbCap.toNat)
      rbCount := BitVec.ofNat 8 (s.rbCount.toNat + 1) } := by
  have hcount : BitVec.ofNat 8 (s.rbCount.toNat + 1) = s.rbCount + 1#8 := by
    rw [BitVec.ofNat_add, BitVec.ofNat_toNat, BitVec.setWidth_eq]
  rw [hcount]
  rfl

/-- The effect of a dequeue with the new count as a number (R155). -/
theorem State.dequeued_eq {s : State} (h : 0 < s.rbCount.toNat) : s.dequeued =
    { s with
      rbMem := Memory.erase s.rbMem s.rbTail.toNat
      rbTail := BitVec.ofNat 8 ((s.rbTail.toNat + 1) % s.rbCap.toNat)
      rbCount := BitVec.ofNat 8 (s.rbCount.toNat - 1) } := by
  rw [← toNat_count_pred h, BitVec.ofNat_toNat, BitVec.setWidth_eq]
  rfl

/-- Settles O23, by whether there is room. -/
theorem enqAppendsOrReportsFull : Obligations.EnqAppendsOrReportsFull := by
  intro b s hs hr
  rw [exec_enq_ready hs]
  refine ⟨fun hroom => ⟨?_, Memory.read_write_same _ _ _, fun a ha => Memory.read_write_other b ha⟩, fun hfull => ?_⟩
  · rw [enqRun, hr.rbEnqueue_eq b hroom, s.enqueued_eq]
    rfl
  · rw [enqRun, rbEnqueue_full b hfull]
    rfl

/-- Settles O24, by whether there is a byte. -/
theorem deqTakesTheOldestOrReportsEmpty : Obligations.DeqTakesTheOldestOrReportsEmpty := by
  intro s hs hr
  rw [exec_deq_ready hs]
  refine ⟨fun hpos => ?_, fun hempty => ?_⟩
  · obtain ⟨v, hv, htaken⟩ := hr.rbDequeue_eq hpos
    refine ⟨v, Memory.erase s.rbMem s.rbTail.toNat, hv, fun a ha => Memory.read_erase_other ha, ?_⟩
    rw [deqRun, htaken, State.dequeued_eq hpos]
    rfl
  · rw [deqRun, rbDequeue_empty hempty]
    rfl

end Sys2Proof.Machine

/-! The serial engine: what a run of an exchange makes of the answers it is given, for any frame (42_serial_engine R173,
R175), and from it the commands `RDREG` and `WRREG` (R190, R191), their counts (R193) and the abandoned exchange (R192). -/

namespace Sys2Proof.Machine

/-! ### What a run has done at a wait -/

/-- The state inside an exchange that has sent `sent` and left the answers `acks` and `bytes`. -/
def State.onBus (s : State) (acks : List Bool) (bytes : List (Option Byte)) (sent : List Action) : State :=
  { s with env := { s.env with busAck := acks, busRx := bytes }, trace := s.trace ++ sent }

@[simp] theorem State.onBus_env (s : State) (acks : List Bool) (bytes : List (Option Byte)) (sent : List Action) :
    (s.onBus acks bytes sent).env = { s.env with busAck := acks, busRx := bytes } := rfl

@[simp] theorem State.onBus_trace (s : State) (acks : List Bool) (bytes : List (Option Byte)) (sent : List Action) :
    (s.onBus acks bytes sent).trace = s.trace ++ sent := rfl

@[simp] theorem State.onBus_cfg (s : State) (acks : List Bool) (bytes : List (Option Byte)) (sent : List Action) :
    (s.onBus acks bytes sent).cfg = s.cfg := rfl

theorem State.onBus_start (s : State) : s.onBus s.env.busAck s.env.busRx [] = s := by
  simp [State.onBus]

theorem State.emit_onBus (s : State) (a : Action) (acks : List Bool) (bytes : List (Option Byte)) (sent : List Action) :
    (s.emit a).onBus acks bytes sent = s.onBus acks bytes (a :: sent) := by
  simp [State.onBus, State.emit]

/-- What abandoning changes: the sticky flag and, if `ABORT_STOP`, the trace (42 R175). -/
theorem State.abandon_eq (s : State) :
    s.abandon = { s with err := timedOut s.err, trace := s.trace ++ abandonTrace s.cfg } := by
  cases h : s.cfg.abortStop <;> simp [State.abandon, abandonTrace, h, State.emit, State.raiseErr, ErrFlags.set, timedOut]

@[simp] theorem State.abandon_env (s : State) : s.abandon.env = s.env := by rw [State.abandon_eq]

@[simp] theorem State.abandon_trace (s : State) : s.abandon.trace = s.trace ++ abandonTrace s.cfg := by
  rw [State.abandon_eq]

theorem symbolsOf_append (f g : List BusStep) : symbolsOf (f ++ g) = symbolsOf f ++ symbolsOf g := by
  induction f with
  | nil => rfl
  | cons x f ih => cases x <;> simp [symbolsOf, ih]

/-! ### A part of a frame whose waits are answered -/

/-- The answers ready in `e` take an exchange through `pre`: an `ACK` for each acknowledgment wait, and the bytes `vals` for
the data waits. After it `acks` and `bytes` are left. -/
structure Answers (e : Env) (pre : List BusStep) (vals : List Byte) (acks : List Bool) (bytes : List (Option Byte)) :
    Prop where
  acked : e.busAck = List.replicate (pre.count .ack) true ++ acks
  received : e.busRx = vals.map some ++ bytes
  vals_length : vals.length = pre.count .rx

section Answers
variable {e : Env} {pre : List BusStep} {vals : List Byte} {acks : List Bool} {bytes : List (Option Byte)}

theorem answers_iff : Answers e pre vals acks bytes ↔ e.busAck = List.replicate (pre.count .ack) true ++ acks ∧
    e.busRx = vals.map some ++ bytes ∧ vals.length = pre.count .rx :=
  ⟨fun ⟨hacked, hreceived, hlength⟩ => ⟨hacked, hreceived, hlength⟩,
    fun ⟨hacked, hreceived, hlength⟩ => ⟨hacked, hreceived, hlength⟩⟩

theorem answers_nil (e : Env) : Answers e [] [] e.busAck e.busRx := ⟨rfl, rfl, rfl⟩

theorem answers_send_iff {sym : BusSym} : Answers e (.send sym :: pre) vals acks bytes ↔ Answers e pre vals acks bytes := by
  simp [answers_iff]

/-- Through an acknowledgment wait: the first answer is `ACK`. -/
theorem answers_ack_iff : Answers e (.ack :: pre) vals acks bytes ↔
    ∃ more, e.busAck = true :: more ∧ Answers { e with busAck := more } pre vals acks bytes := by
  simp [answers_iff, List.replicate_succ]

/-- Through a data wait: the first answer is the first byte. -/
theorem answers_rx_iff : Answers e (.rx :: pre) vals acks bytes ↔
    ∃ w rest more, vals = w :: rest ∧ e.busRx = some w :: more ∧ Answers { e with busRx := more } pre rest acks bytes := by
  cases vals with
  | nil => simp [answers_iff]
  | cons w rest => simp [answers_iff, and_left_comm]

end Answers

/-- A run of a frame whose first part is answered sends that part and goes on with the rest. -/
theorem busRun_append {pre : List BusStep} (rest : List BusStep) {vals : List Byte} (v : Byte) {s : State}
    {acks : List Bool} {bytes : List (Option Byte)} (h : Answers s.env pre vals acks bytes) :
    busRun (pre ++ rest) v s = busRun rest (vals.getLast?.getD v) (s.onBus acks bytes (symbolsOf pre)) := by
  induction pre generalizing vals v s with
  | nil =>
    obtain ⟨hacks, hbytes, hvals⟩ := h
    obtain rfl : vals = [] := List.length_eq_zero_iff.mp hvals
    obtain rfl : s.env.busAck = acks := hacks
    obtain rfl : s.env.busRx = bytes := hbytes
    rw [symbolsOf, State.onBus_start]
    rfl
  | cons x pre ih =>
    cases x with
    | send sym =>
      have hrest : Answers (s.emit (.bus sym)).env pre vals acks bytes := answers_send_iff.mp h
      rw [List.cons_append, busRun_send, ih v hrest, State.emit_onBus]
      rfl
    | ack =>
      obtain ⟨more, hfirst, hrest⟩ := answers_ack_iff.mp h
      rw [List.cons_append, busRun_ack_true hfirst]
      exact ih v hrest
    | rx =>
      obtain ⟨w, ws, more, rfl, hfirst, hrest⟩ := answers_rx_iff.mp h
      rw [List.cons_append, busRun_rx_some hfirst, List.getLast?_cons, Option.getD_some]
      exact ih w hrest

section Ends
variable {pre : List BusStep} {vals : List Byte} {s : State} {acks : List Bool} {bytes : List (Option Byte)}

/-- R173 for a frame whose every wait is answered: it is complete. -/
theorem busRun_answered (v : Byte) (h : Answers s.env pre vals acks bytes) :
    busRun pre v s = .done (vals.getLast?.getD v) (s.onBus acks bytes (symbolsOf pre)) := by
  simpa using busRun_append [] v h

/-- R175 at an acknowledgment wait. -/
theorem busRun_noAck (post : List BusStep) (v : Byte) (h : Answers s.env pre vals (false :: acks) bytes) :
    busRun (pre ++ .ack :: post) v s = .timeout (s.onBus acks bytes (symbolsOf pre)).abandon :=
  (busRun_append _ v h).trans (busRun_ack_false rfl)

/-- R175 at a data wait. -/
theorem busRun_noByte (post : List BusStep) (v : Byte) (h : Answers s.env pre vals acks (none :: bytes)) :
    busRun (pre ++ .rx :: post) v s = .timeout (s.onBus acks bytes (symbolsOf pre)).abandon :=
  (busRun_append _ v h).trans (busRun_rx_none rfl)

theorem busRun_ack_open (post : List BusStep) (v : Byte) (h : Answers s.env pre vals [] bytes) :
    busRun (pre ++ .ack :: post) v s = .waiting (.ack :: post) (s.onBus [] bytes (symbolsOf pre)) :=
  (busRun_append _ v h).trans (busRun_ack_waits rfl)

theorem busRun_rx_open (post : List BusStep) (v : Byte) (h : Answers s.env pre vals acks []) :
    busRun (pre ++ .rx :: post) v s = .waiting (.rx :: post) (s.onBus acks [] (symbolsOf pre)) :=
  (busRun_append _ v h).trans (busRun_rx_waits rfl)

end Ends

/-! ### All that a run of an exchange can do -/

/-- The ways a run of the frame `f` from `s` ends, each with how far the answers took it (42 R173, R175). `v` is the byte
received before. -/
inductive RunEnds (s : State) (v : Byte) : List BusStep → BusEnd → Prop
  | done {f vals acks bytes} (h : Answers s.env f vals acks bytes) :
      RunEnds s v f (.done (vals.getLast?.getD v) (s.onBus acks bytes (symbolsOf f)))
  | noAck {pre post vals acks bytes} (h : Answers s.env pre vals (false :: acks) bytes) :
      RunEnds s v (pre ++ .ack :: post) (.timeout (s.onBus acks bytes (symbolsOf pre)).abandon)
  | noByte {pre post vals acks bytes} (h : Answers s.env pre vals acks (none :: bytes)) :
      RunEnds s v (pre ++ .rx :: post) (.timeout (s.onBus acks bytes (symbolsOf pre)).abandon)
  | ackOpen {pre post vals bytes} (h : Answers s.env pre vals [] bytes) :
      RunEnds s v (pre ++ .ack :: post) (.waiting (.ack :: post) (s.onBus [] bytes (symbolsOf pre)))
  | byteOpen {pre post vals acks} (h : Answers s.env pre vals acks []) :
      RunEnds s v (pre ++ .rx :: post) (.waiting (.rx :: post) (s.onBus acks [] (symbolsOf pre)))

/-- The answers left at `rest` take an exchange no further: `rest` is empty, or its first wait is not answered well. -/
inductive Stops : List BusStep → List Bool → List (Option Byte) → Prop
  | complete {acks bytes} : Stops [] acks bytes
  | noAck {post acks bytes} : Stops (.ack :: post) (false :: acks) bytes
  | noByte {post acks bytes} : Stops (.rx :: post) acks (none :: bytes)
  | ackOpen {post bytes} : Stops (.ack :: post) [] bytes
  | byteOpen {post acks} : Stops (.rx :: post) acks []

/-- The answers take an exchange through a beginning of its frame, up to its end or to a wait they do not get past. -/
theorem exists_answered_beginning (f : List BusStep) (e : Env) :
    ∃ pre rest vals acks bytes, f = pre ++ rest ∧ Answers e pre vals acks bytes ∧ Stops rest acks bytes := by
  induction f generalizing e with
  | nil => exact ⟨[], [], [], _, _, rfl, answers_nil e, .complete⟩
  | cons x f ih =>
    cases x with
    | send sym =>
      obtain ⟨pre, rest, vals, acks, bytes, rfl, hpre, hstop⟩ := ih e
      exact ⟨.send sym :: pre, rest, vals, acks, bytes, rfl, answers_send_iff.mpr hpre, hstop⟩
    | ack =>
      cases hb : e.busAck with
      | nil => exact ⟨[], _, [], _, _, rfl, answers_nil e, hb ▸ .ackOpen⟩
      | cons b more =>
        cases b with
        | false => exact ⟨[], _, [], _, _, rfl, answers_nil e, hb ▸ .noAck⟩
        | true =>
          obtain ⟨pre, rest, vals, acks, bytes, rfl, hpre, hstop⟩ := ih { e with busAck := more }
          exact ⟨.ack :: pre, rest, vals, acks, bytes, rfl, answers_ack_iff.mpr ⟨more, hb, hpre⟩, hstop⟩
    | rx =>
      cases hb : e.busRx with
      | nil => exact ⟨[], _, [], _, _, rfl, answers_nil e, hb ▸ .byteOpen⟩
      | cons b more =>
        cases b with
        | none => exact ⟨[], _, [], _, _, rfl, answers_nil e, hb ▸ .noByte⟩
        | some w =>
          obtain ⟨pre, rest, vals, acks, bytes, rfl, hpre, hstop⟩ := ih { e with busRx := more }
          exact ⟨.rx :: pre, rest, w :: vals, acks, bytes, rfl,
            answers_rx_iff.mpr ⟨w, vals, more, rfl, hb, hpre⟩, hstop⟩

/-- Every run ends in one of these ways: the answers are good up to the end of the frame, or up to a wait. -/
theorem busRun_ends {f : List BusStep} {v : Byte} {s : State} {e : BusEnd} (hrun : busRun f v s = e) :
    RunEnds s v f e := by
  subst hrun
  obtain ⟨pre, rest, vals, acks, bytes, rfl, hpre, hstop⟩ := exists_answered_beginning f s.env
  cases hstop with
  | complete => rw [List.append_nil, busRun_answered v hpre]; exact .done hpre
  | noAck => rw [busRun_noAck _ v hpre]; exact .noAck hpre
  | noByte => rw [busRun_noByte _ v hpre]; exact .noByte hpre
  | ackOpen => rw [busRun_ack_open _ v hpre]; exact .ackOpen hpre
  | byteOpen => rw [busRun_rx_open _ v hpre]; exact .byteOpen hpre

/-! ### What an exchange changes -/

theorem symbolsOf_isBeginning (pre post : List BusStep) : symbolsOf pre <+: symbolsOf (pre ++ post) :=
  ⟨symbolsOf post, (symbolsOf_append pre post).symm⟩

/-- Settles O31, by the ways a run ends. -/
theorem exchangesSendABeginningOfTheFrame : Obligations.ExchangesSendABeginningOfTheFrame := by
  intro f v s
  refine ⟨fun w t hrun => ?_, fun t hrun => ?_, fun left t hrun => ?_⟩
  · cases busRun_ends hrun with
    | done => rfl
  · cases busRun_ends hrun with
    | noAck => exact ⟨_, symbolsOf_isBeginning _ _, by rw [State.abandon_eq]; rfl⟩
    | noByte => exact ⟨_, symbolsOf_isBeginning _ _, by rw [State.abandon_eq]; rfl⟩
  · cases busRun_ends hrun with
    | ackOpen => exact ⟨_, symbolsOf_append _ _, rfl⟩
    | byteOpen => exact ⟨_, symbolsOf_append _ _, rfl⟩

/-! ### What an exchange asks -/

/-- Inside an exchange only the two questions of the bus have been asked. -/
theorem busAsked_of_env {s t : State} {acks moreAcks : List Bool} {bytes moreBytes : List (Option Byte)}
    (ht : t.env = { s.env with busAck := moreAcks, busRx := moreBytes })
    (hacks : s.env.busAck = acks ++ moreAcks) (hbytes : s.env.busRx = bytes ++ moreBytes) : BusAsked s t acks bytes := by
  rw [BusAsked, ht, ← hacks, ← hbytes]

theorem forall_replicate_true (n : Nat) : ∀ x ∈ List.replicate n true, x = true :=
  fun _ hx => List.eq_of_mem_replicate hx

theorem forall_map_some_ne_none (vals : List Byte) : ∀ x ∈ vals.map some, x ≠ none := by
  simp

/-- Settles O32: the counts by counting, the rest by the ways a run ends. -/
theorem exchangesAskOncePerWait : Obligations.ExchangesAskOncePerWait := by
  refine ⟨fun c a v => ⟨rfl, rfl, rfl, rfl⟩, fun f v w s t hrun => ?_, fun f v s t hrun => ?_,
    fun f left v s t hrun => ?_⟩
  · cases busRun_ends hrun with
    | done h =>
      refine ⟨_, _, busAsked_of_env rfl h.acked h.received, List.length_replicate, ?_, forall_replicate_true _,
        forall_map_some_ne_none _, ?_, rfl⟩
      · rw [List.length_map, h.vals_length]
      · rw [List.getLast?_map, Option.getD_map]
  · cases busRun_ends hrun with
    | noAck h =>
      refine ⟨_, .ack, _, _ ++ [false], _, rfl,
        busAsked_of_env (State.abandon_env _) (by simpa using h.acked) h.received, ?_, ?_,
        .inl ⟨rfl, ⟨_, rfl, forall_replicate_true _⟩, forall_map_some_ne_none _⟩, State.abandon_trace _⟩
      · simp
      · simp [h.vals_length]
    | noByte h =>
      refine ⟨_, .rx, _, _, _ ++ [none], rfl,
        busAsked_of_env (State.abandon_env _) h.acked (by simpa using h.received), ?_, ?_,
        .inr ⟨rfl, forall_replicate_true _, _, rfl, forall_map_some_ne_none _⟩, State.abandon_trace _⟩
      · simp
      · simp [h.vals_length]
  · cases busRun_ends hrun with
    | ackOpen h =>
      exact ⟨_, _, _, _, _, rfl, rfl, busAsked_of_env rfl h.acked h.received, List.length_replicate,
        (List.length_map _).trans h.vals_length, forall_replicate_true _, forall_map_some_ne_none _, .inl ⟨rfl, rfl⟩, rfl⟩
    | byteOpen h =>
      exact ⟨_, _, _, _, _, rfl, rfl, busAsked_of_env rfl h.acked h.received, List.length_replicate,
        (List.length_map _).trans h.vals_length, forall_replicate_true _, forall_map_some_ne_none _, .inr ⟨rfl, rfl⟩, rfl⟩

/-! ### `RDREG` and `WRREG` -/

/-- A device address above a direction bit, as a number (30_encoding R114). -/
theorem concat_eq_ofNat (address : BitVec 7) (bit : Bool) :
    address.concat bit = BitVec.ofNat 8 (2 * address.toNat + bit.toNat) := by
  rw [Nat.mul_comm, ← BitVec.toNat_concat, BitVec.ofNat_toNat, BitVec.setWidth_eq]

theorem addrW_eq (c : Config) : addrW c = BitVec.ofNat 8 (2 * c.devAddr.toNat) := concat_eq_ofNat c.devAddr false

theorem addrR_eq (c : Config) : addrR c = BitVec.ofNat 8 (2 * c.devAddr.toNat + 1) := concat_eq_ofNat c.devAddr true

/-- Settles O28: the answers take the exchange through its whole frame. -/
theorem rdregReturnsTheSlavesByte : Obligations.RdregReturnsTheSlavesByte := by
  intro a v s acks bytes hs hacks hbytes
  have hframe : Answers s.env (readFrame s.cfg a) [v] acks bytes := ⟨hacks, hbytes, rfl⟩
  rw [exec_rdreg_ready hs, rdregRun, busRun_answered _ hframe, ← addrW_eq, ← addrR_eq]
  rfl

/-- Settles O29: the answers take the exchange through its whole frame. -/
theorem wrregSendsTheByte : Obligations.WrregSendsTheByte := by
  intro a v s acks hs hacks
  have hframe : Answers s.env (writeFrame s.cfg a v) [] acks s.env.busRx := ⟨hacks, rfl, rfl⟩
  rw [exec_wrreg_ready hs, wrregRun, busRun_answered _ hframe]
  rfl

/-- What a write has sent at its acknowledgment wait number `k`. -/
theorem writeFrame_split_ack (c : Config) (a v : Byte) {k : Nat} (hk : k < 3) :
    ∃ pre post, writeFrame c a v = pre ++ .ack :: post ∧ pre.count .ack = k ∧ pre.count .rx = 0 ∧
      symbolsOf pre = (writeTrace c a v).take (k + 2) := by
  refine ⟨(writeFrame c a v).take (2 * k + 2), (writeFrame c a v).drop (2 * k + 3), ?_⟩
  interval_cases k <;> exact ⟨rfl, rfl, rfl, rfl⟩

/-- What a read has sent at its acknowledgment wait number `k`; before the last one there is a repeated start. -/
theorem readFrame_split_ack (c : Config) (a : Byte) {k : Nat} (hk : k < 3) :
    ∃ pre post, readFrame c a = pre ++ .ack :: post ∧ pre.count .ack = k ∧ pre.count .rx = 0 ∧
      symbolsOf pre = (symbolsOf (readFrame c a)).take (if k = 2 then 5 else k + 2) := by
  refine ⟨(readFrame c a).take (if k = 2 then 7 else 2 * k + 2), (readFrame c a).drop (if k = 2 then 8 else 2 * k + 3), ?_⟩
  interval_cases k <;> exact ⟨rfl, rfl, rfl, rfl⟩

/-- Settles O30: the answers take the exchange to the wait that times out. -/
theorem timeoutAbandonsTheExchange : Obligations.TimeoutAbandonsTheExchange := by
  intro a v s acks hs
  refine ⟨fun k hk hacks => ⟨?_, ?_⟩, fun bytes hacks hbytes => ?_⟩
  · obtain ⟨pre, post, hframe, hcount, hrx, hsent⟩ := writeFrame_split_ack s.cfg a v hk
    have hpre : Answers s.env pre [] (false :: acks) s.env.busRx := ⟨by rw [hcount, hacks], rfl, hrx.symm⟩
    rw [exec_wrreg_ready hs, wrregRun, hframe, busRun_noAck post _ hpre, State.abandon_eq, hsent]
    rfl
  · obtain ⟨pre, post, hframe, hcount, hrx, hsent⟩ := readFrame_split_ack s.cfg a hk
    have hpre : Answers s.env pre [] (false :: acks) s.env.busRx := ⟨by rw [hcount, hacks], rfl, hrx.symm⟩
    rw [exec_rdreg_ready hs, rdregRun, ← hsent, hframe, busRun_noAck post _ hpre, State.abandon_eq]
    rfl
  · have hpre : Answers s.env ((readFrame s.cfg a).take 8) [] acks (none :: bytes) := ⟨hacks, hbytes, rfl⟩
    have hrun := busRun_noByte [.send .mnack, .send .stop] 0x00#8 hpre
    rw [exec_rdreg_ready hs, rdregRun]
    refine (congrArg readEnd hrun).trans ?_
    rw [State.abandon_eq]
    rfl

end Sys2Proof.Machine

/-! Exceptions: events arrive, wait and are taken (60_exceptions R285 to R289), and the block in `FAULTED` (R279, R282). -/

namespace Sys2Proof

/-- A legal command word is the operation of an opcode: no word decodes to an event (30_encoding R102). -/
theorem decodeCmd_ok {w : CmdWord} {i : Instr} (h : decodeCmd w = .ok i) :
    ∃ (op : Opcode) (a b : Byte), i = op.instr a b := by
  unfold decodeCmd at h
  split at h
  · cases h
  next op _ =>
    split_ifs at h
    cases h
    exact ⟨op, _, _, rfl⟩

end Sys2Proof

namespace Sys2Proof.Machine

/-! ### The arrival of an event -/

/-- Only an edge can be masked, by its enable (10_state R43). -/
theorem State.latch_enabled {s : State} {e : EventCode} (h : e ≠ .edge ∨ s.out.edgeIrqEn = true) :
    s.latch e = { s with pend := s.pend.put true e } := by
  refine if_neg fun ⟨he, hmasked⟩ => ?_
  obtain hne | hen := h
  · exact hne he
  · exact Bool.false_ne_true (hmasked.symm.trans hen)

theorem State.latch_masked {s : State} (h : s.out.edgeIrqEn = false) : s.latch .edge = s := if_pos ⟨rfl, h⟩

/-- All that an arrival can do. -/
theorem State.latch_cases (s : State) (e : EventCode) :
    (e = .edge ∧ s.out.edgeIrqEn = false ∧ s.latch e = s) ∨
    ((e ≠ .edge ∨ s.out.edgeIrqEn = true) ∧ s.latch e = { s with pend := s.pend.put true e }) := by
  by_cases h : e ≠ .edge ∨ s.out.edgeIrqEn = true
  · exact .inr ⟨h, State.latch_enabled h⟩
  · rw [not_or, not_not, Bool.not_eq_true] at h
    obtain ⟨rfl, hmasked⟩ := h
    exact .inl ⟨rfl, hmasked, State.latch_masked hmasked⟩

@[simp] theorem Pend.put_put (p : Pend) (a b : Bool) (e : EventCode) : (p.put a e).put b e = p.put b e := by
  cases e <;> rfl

/-- A second arrival is absorbed, be the first one latched or masked (R286). -/
theorem State.latch_latch (s : State) (e : EventCode) : (s.latch e).latch e = s.latch e := by
  obtain ⟨-, -, hmasked⟩ | ⟨hen, hset⟩ := s.latch_cases e
  · rw [hmasked, hmasked]
  · rw [hset, State.latch_enabled (by exact hen), Pend.put_put]

/-- An arrival leaves the bits of the other sources. -/
theorem State.latch_get_other (s : State) {e f : EventCode} (h : f ≠ e) : (s.latch e).pend.get f = s.pend.get f := by
  obtain ⟨-, -, hmasked⟩ | ⟨-, hset⟩ := s.latch_cases e
  · rw [hmasked]
  · rw [hset]
    exact Pend.get_put_other _ _ h

/-- An arrival clears no bit. -/
theorem State.latch_gains {s : State} (e : EventCode) {f : EventCode} (h : s.pend.get f = true) :
    (s.latch e).pend.get f = true := by
  obtain ⟨-, -, hmasked⟩ | ⟨-, hset⟩ := s.latch_cases e
  · rwa [hmasked]
  · rw [hset]
    by_cases hf : f = e
    · exact hf ▸ Pend.get_put_same _ _ _
    · exact (Pend.get_put_other _ _ hf).trans h

/-- Settles O9: an arrival is `latch`, masked or not. -/
theorem arrivalsLatch : Obligations.ArrivalsLatch :=
  ⟨fun _ _ h => State.latch_enabled h, fun _ h => State.latch_masked h, fun e s => s.latch_latch e,
    fun _ _ s h => s.latch_get_other h⟩

/-! ### The taking of an event -/

/-- Settles O8: `takeEvent` is those two writes, and a ready block runs the handler from there. -/
theorem takingAnEventEntersItsHandler : Obligations.TakingAnEventEntersItsHandler :=
  ⟨fun _ _ => rfl, fun _ hs => ⟨exec_subint_ready hs, exec_period_ready hs, exec_txrdy_ready hs, exec_edge_ready hs⟩⟩

/-- One pending event needs no choice (R287). -/
theorem pickEvent_single {s : State} {e : EventCode} (h : s.pend.events = [e]) : pickEvent s = some (e, s) := by
  simp only [pickEvent, h]

theorem Pend.events_put_zero (e : EventCode) : (Pend.zero.put true e).events = [e] := by cases e <;> rfl

/-- The free choice takes the source it favours where that is pending. -/
theorem freeChoice_favoured {e : EventCode} {p : Pend} (h : p.get e = true) : freeChoice e p = some e := by
  cases e <;> exact List.find?_cons_of_pos h

/-- Going round, the free choice meets every source. -/
theorem mem_eventsFrom (e f : EventCode) : e ∈ eventsFrom f := by cases e <;> cases f <;> decide

/-- The free choice finds something where something is pending. -/
theorem freeChoice_isSome (f : EventCode) {p : Pend} (h : p.any = true) : (freeChoice f p).isSome = true := by
  obtain ⟨e, he⟩ := p.any_iff.mp h
  exact List.find?_isSome.mpr ⟨e, mem_eventsFrom e f, he⟩

/-- Where something is pending an event is taken, whatever order the platform fixes (R285 a). -/
theorem pickEvent_isSome {s : State} (h : s.pend.any = true) : (pickEvent s).isSome = true := by
  obtain ⟨e, he⟩ := s.pend.any_iff.mp h
  have hmem : e ∈ s.pend.events := (s.pend.mem_events e).mpr he
  unfold pickEvent
  split
  next hnone => exact absurd hmem (hnone ▸ List.not_mem_nil)
  · rfl
  · split
    · rfl
    · obtain ⟨f, hf⟩ := Option.isSome_iff_exists.mp (freeChoice_isSome (Config.evtChoice s.choiceIx) h)
      rw [hf]
      rfl

/-- Without a fixed order the event taken is the favoured one, if it is pending (R287). -/
theorem pickEvent_favoured {s : State} {e : EventCode} (h : s.pend.get e = true) (horder : s.cfg.evtOrder = .anyOrder)
    (hchoice : Config.evtChoice s.choiceIx = e) : ∃ n, pickEvent s = some (e, { s with choiceIx := n }) := by
  have hmem : e ∈ s.pend.events := (s.pend.mem_events e).mpr h
  unfold pickEvent
  split
  next hnone => exact absurd hmem (hnone ▸ List.not_mem_nil)
  next f hone =>
    have hf : e = f := List.mem_singleton.mp (hone ▸ hmem)
    exact ⟨s.choiceIx, by rw [hf]⟩
  · rw [horder, hchoice, freeChoice_favoured h]
    exact ⟨_, rfl⟩

/-- Settles O7: what `pickEvent` chooses is what the step takes, and by its lemmas that is a pending event, the favoured
one without a fixed order, and the only one where there is one. -/
theorem stepTakesAPendingEvent : Obligations.StepTakesAPendingEvent := by
  constructor
  · intro s hctx htask hany
    obtain ⟨⟨e, t⟩, hpick⟩ := Option.isSome_iff_exists.mp (pickEvent_isSome hany)
    obtain ⟨hpend, n, rfl⟩ := pickEvent_pending hpick
    refine ⟨e, n, hpend, serve_event hctx htask hpick, fun e' hone => ?_⟩
    have hsingle := pickEvent_single (hone ▸ Pend.events_put_zero e')
    rw [hpick] at hsingle
    obtain ⟨rfl, hstate⟩ := Prod.mk.inj (Option.some.inj hsingle)
    exact ⟨rfl, congrArg State.choiceIx hstate⟩
  · intro e s hctx htask hpend horder hchoice
    obtain ⟨n, hpick⟩ := pickEvent_favoured hpend horder hchoice
    exact ⟨n, serve_event hctx htask hpick⟩

/-! ### `FAULTED` -/

section Faulted
variable {s : State} (hc : configOk s.cfg = true) (hx : s.ctx = .faulted)
include hc hx

/-- Every command but an `RDSR` of a listed register is refused in `FAULTED` (R279). -/
theorem exec_faulted (op : Opcode) (a b : Byte) (h : ∀ n, op.instr a b = .rdsr n → srListed s.cfg n = false) :
    exec (op.instr a b) s = .next (s.respond .faulted 0x00#8) := by
  cases op with
  | rdsr => exact (execRdsr_unlisted (h a rfl)).trans (onCommand_faulted hc hx)
  | acq | rel | sel | enter | alloc | enq | deq | rdreg | wrreg => exact onCommand_faulted hc hx

end Faulted

section Faulted
variable {s t : State} (hx : s.ctx = .faulted)
include hx

/-- All that a command can do in `FAULTED`: be refused, or read a listed register (R279). -/
theorem exec_faulted_next {op : Opcode} {a b : Byte} (h : exec (op.instr a b) s = .next t) :
    ∃ st v, t = s.respond st v := by
  cases hc : configOk s.cfg with
  | false => cases (exec_invalid _ hc).symm.trans h
  | true =>
    by_cases hrdsr : ∀ n, op.instr a b = .rdsr n → srListed s.cfg n = false
    · cases (exec_faulted hc hx op a b hrdsr).symm.trans h
      exact ⟨_, _, rfl⟩
    · push Not at hrdsr
      obtain ⟨n, hn, hlisted⟩ := hrdsr
      obtain ⟨v, hv⟩ := Option.ne_none_iff_exists'.mp fun hnone => hlisted (readSr_eq_none.mp hnone)
      rw [hn] at h
      cases (execRdsr_faulted hc hx hv).symm.trans h
      exact ⟨_, _, rfl⟩

/-- An illegal word can only be refused (R279). -/
theorem illegalWord_faulted_next (h : illegalWord s = .next t) : t = s.respond .faulted 0x00#8 := by
  cases hc : configOk s.cfg with
  | false => cases (onCommand_invalid hc).symm.trans h
  | true =>
    cases (onCommand_faulted hc hx).symm.trans h
    rfl

/-- All that serving the port does in `FAULTED`: a word may be taken off, a response may be given. -/
theorem serveCommand_faulted_next (h : serveCommand s = .next t) :
    ∃ words answers, t = { s with cmdIn := words, rsp := answers } := by
  cases hcmd : s.cmdIn with
  | nil =>
    cases (serveCommand_idle hcmd).symm.trans h
    exact ⟨s.cmdIn, s.rsp, rfl⟩
  | cons w rest =>
    cases hdecode : decodeCmd w with
    | error r =>
      rw [serveCommand_illegal hcmd hdecode] at h
      exact ⟨rest, _, illegalWord_faulted_next (by exact hx) h⟩
    | ok i =>
      obtain ⟨op, a, b, rfl⟩ := decodeCmd_ok hdecode
      rw [serveCommand_legal hcmd hdecode] at h
      obtain ⟨st, v, hresponse⟩ := exec_faulted_next (by exact hx) h
      exact ⟨rest, _, hresponse⟩

end Faulted

/-- Settles O12: in `FAULTED` the step serves the port, and a legal word that is no `RDSR` of a listed number is refused as
an illegal one is. -/
theorem faultedRefusesCommands : Obligations.FaultedRefusesCommands := by
  rintro s u w rest rfl hc hx hcmd hrdsr
  rw [step, serve_faulted hx]
  cases hdecode : decodeCmd w with
  | error r => exact (serveCommand_illegal hcmd hdecode).trans (onCommand_faulted hc hx)
  | ok i =>
    obtain ⟨op, a, b, rfl⟩ := decodeCmd_ok hdecode
    rw [serveCommand_legal hcmd hdecode]
    exact exec_faulted (by exact hc) (by exact hx) op a b fun n hn => hrdsr n (hn ▸ hdecode)

/-- From `s` to `t` only what is pending and the ports' data changed, and no pending bit was lost (R282). -/
def OnlyArrivals (s t : State) : Prop :=
  t = { s with pend := t.pend, env := t.env, cmdIn := t.cmdIn, script := t.script, rsp := t.rsp } ∧
  ∀ e, s.pend.get e = true → t.pend.get e = true

/-- An act of the environment that is no reset only brings something. -/
theorem OnlyArrivals.envAct {s u : State} {a : EnvAct} (ha : ∀ c, a ≠ .reset c) (h : OnlyArrivals s u) :
    OnlyArrivals s (u.envAct a) := by
  obtain ⟨hcells, hgains⟩ := h
  cases a with
  | event e =>
    refine ⟨?_, fun f hf => State.latch_gains e (hgains f hf)⟩
    obtain ⟨-, -, hmasked⟩ | ⟨-, hset⟩ := u.latch_cases e
    · simpa only [State.envAct, hmasked] using hcells
    · rw [State.envAct, hset, hcells]
  | command w => exact ⟨by rw [State.envAct, hcells], hgains⟩
  | answer a => exact ⟨by rw [State.envAct, State.setEnv, hcells], hgains⟩
  | reset c => exact absurd rfl (ha c)

/-- So does a slot without a reset. -/
theorem onlyArrivals_environment {s : State} (h : ∀ acts c, s.script.head? = some acts → EnvAct.reset c ∉ acts) :
    OnlyArrivals s s.environment := by
  refine environment_keeps (OnlyArrivals s) ⟨rfl, fun _ => id⟩ fun u a ⟨acts, hslot, ha⟩ hu => ?_
  exact hu.envAct fun c hreset => h acts c hslot (hreset ▸ ha)

/-- Settles O13: the acts of the slot only bring something, and so the block still is in `FAULTED` and only serves the
port. -/
theorem faultedIsLeftOnlyByReset : Obligations.FaultedIsLeftOnlyByReset := by
  intro s t hx hslot hstep
  obtain ⟨hcells, hgains⟩ := onlyArrivals_environment hslot
  have hx' : s.environment.ctx = .faulted := (congrArg State.ctx hcells).trans hx
  rw [step, serve_faulted hx'] at hstep
  obtain ⟨words, answers, rfl⟩ := serveCommand_faulted_next hx' hstep
  exact ⟨by rw [hcells], hgains⟩

/-! ### Outside acceptance -/

/-- A command that is not accepted does nothing (R285 c). -/
theorem onCommand_deferred {run : State → Out} {s : State} (hc : configOk s.cfg = true)
    (hx : s.ctx ≠ .faulted) (hbusy : ¬ (s.ctx = .main ∧ s.task = none)) : onCommand run s = .next s := by
  obtain ⟨hmain, htask, -⟩ | ⟨hfaulted, -⟩ | ⟨-, -, hrun⟩ := onCommand_cases (run := run) hc
  · exact absurd ⟨hmain, htask⟩ hbusy
  · exact absurd hfaulted hx
  · exact hrun

/-- An event that cannot be taken is latched (R288). -/
theorem onEvent_deferred {e : EventCode} {handler : State → Out} {s : State} (hc : configOk s.cfg = true)
    (hbusy : ¬ (s.ctx = .main ∧ s.task = none)) : onEvent e handler s = .next (s.latch e) := by
  obtain ⟨hmain, htask, -⟩ | ⟨-, hrun⟩ := onEvent_cases (e := e) (k := handler) hc
  · exact absurd ⟨hmain, htask⟩ hbusy
  · exact hrun

/-- Only in `FAULTED` has `RDSR` a path beside acceptance (44 R260). -/
theorem execRdsr_onCommand {n : Byte} {s : State} (hx : s.ctx ≠ .faulted) : execRdsr n s = onCommand (rdsrRun n) s := by
  unfold execRdsr
  split
  next hfaulted _ => exact absurd hfaulted hx
  · rfl

/-! ### What going on with an operation does to the pending bits

The principle of `Closed` says nothing here: it lets every single update write the pending bits at will. An operation that
goes on takes no event, so the one write among its updates is the edge that `PERIOD` drops (43 R214, R216). -/

/-- The pending bits are these. A state that differs in other cells has the same ones by definition, so a hypothesis about
the state before such an update is one about the state after it. -/
def Latched (p : Pend) (s : State) : Prop := s.pend = p

/-- The pending bits without the edge (43 R214 line 6, R216 line 1). -/
def Pend.dropEdge (p : Pend) : Pend := { p with edge := false }

theorem Pend.get_dropEdge (p : Pend) {e : EventCode} (h : e ≠ .edge) : p.dropEdge.get e = p.get e := by
  cases e with
  | edge => exact absurd rfl h
  | subint | period | txrdy => rfl

section Latched
variable {p : Pend}

theorem acquire_latched {s : State} {k : State → Out} {m : Nat} (h : Latched p s)
    (hk : ∀ t, Latched p t → Keeps (Latched p) (k t)) : Keeps (Latched p) (afterHold k (acquire m s)) := by
  obtain ⟨-, hfatal⟩ | ⟨-, hok⟩ := acquire_cases m s
  · exact hfatal ▸ keeps_next h
  · exact hok ▸ hk _ h

theorem release_latched {s : State} {k : State → Out} {m : Nat} (h : Latched p s)
    (hk : ∀ t, Latched p t → Keeps (Latched p) (k t)) : Keeps (Latched p) (afterHold k (release m s)) := by
  obtain ⟨-, hfatal⟩ | ⟨-, hok⟩ := release_cases m s
  · exact hfatal ▸ keeps_next h
  · exact hok ▸ hk _ h

theorem busRun_latched (f : List BusStep) (v : Byte) {s : State} (h : Latched p s) : Latched p (busRun f v s).state :=
  busRun_keeps (Latched p) (fun _ _ => id) (fun _ _ => id) (fun _ _ => id) (fun _ => id) f v s h

/-- The state an enqueue ends in has it. -/
def EnqKeeps (P : State → Prop) : EnqEnd → Prop
  | .stored s => P s
  | .full s => P s
  | .fault _ => True

/-- The state a dequeue ends in has it. -/
def DeqKeeps (P : State → Prop) : DeqEnd → Prop
  | .taken _ s => P s
  | .empty s => P s
  | .fault _ => True

theorem rbEnqueue_latched (b : Byte) {s : State} (h : Latched p s) : EnqKeeps (Latched p) (rbEnqueue b s) := by
  obtain ⟨-, hend⟩ | ⟨-, -, hend⟩ | ⟨-, -, hend⟩ := rbEnqueue_cases b s <;> rw [hend]
  · exact h
  · trivial
  · exact h

theorem rbDequeue_latched {s : State} (h : Latched p s) : DeqKeeps (Latched p) (rbDequeue s) := by
  obtain ⟨-, hend⟩ | ⟨-, -, hend⟩ | ⟨-, -, -, hend⟩ | ⟨-, -, v, -, hend⟩ := rbDequeue_cases s <;> rw [hend]
  · exact h
  · trivial
  · trivial
  · exact h

theorem enqueueAll_latched (bytes : List Byte) : ∀ {s : State}, Latched p s →
    EnqKeeps (Latched p) (enqueueAll bytes s) := by
  induction bytes with
  | nil => exact fun h => h
  | cons b bytes ih =>
    intro s h
    have hfirst := rbEnqueue_latched b h
    unfold enqueueAll
    split <;> rename_i hend <;> rw [hend] at hfirst
    · exact ih hfirst
    · exact hfirst
    · trivial

theorem sendNext_latched {s : State} (h : Latched p s) : Keeps (Latched p) (sendNext s) := by
  have hbyte := rbDequeue_latched h
  unfold sendNext
  split <;> rename_i hend <;> rw [hend] at hbyte
  · exact keeps_next hbyte
  · exact keeps_next hbyte
  · exact fun _ hnext => nomatch hnext

theorem handOff_latched {s : State} (h : Latched p s) : Keeps (Latched p) (handOff s) := by
  have hempty : Latched p (s.rbAllocate (BitVec.ofNat 8 s.cfg.rbCap)) := h
  have hburst := enqueueAll_latched (burst s) hempty
  unfold handOff
  split <;> rename_i hend <;> rw [hend] at hburst
  · exact acquire_latched hburst fun _ => sendNext_latched
  · exact keeps_next hburst
  · exact fun _ hnext => nomatch hnext

theorem comparatorOff_latched {s : State} (h : Latched p s) : Latched p s.comparatorOff :=
  (State.comparatorOff_pend s).trans h

theorem hysteresis_latched (c : Bool) {s : State} (h : Latched p s) : Latched p (s.hysteresis c) :=
  (State.hysteresis_pend s c).trans h

theorem readComparator_latched {s : State} (h : Latched p s) : Keeps (Latched p) (readComparator s) := by
  unfold readComparator
  split
  · exact keeps_next h
  next c more _ =>
    have hread : Latched p (s.setEnv { s.env with acmpOut := more }) := h
    exact handOff_latched (hysteresis_latched c (comparatorOff_latched hread))

theorem adcRead_latched {s : State} (h : Latched p s) : SampleKeeps (Latched p) (adcRead s) := by
  unfold adcRead
  split
  · exact h
  · split
    · exact h
    · trivial

theorem adcWait_latched {s : State} (h : Latched p s) : SampleKeeps (Latched p) (adcWait s) := by
  unfold adcWait
  split
  · exact h
  · exact adcRead_latched h

theorem adcLoop_latched (n : Nat) : ∀ (total : Nat) {s : State}, Latched p s →
    AdcKeeps (Latched p) (adcLoop n total s) := by
  induction n with
  | zero => exact fun _ _ h => h
  | succ n ih =>
    intro total s h
    have hsample : SampleKeeps (Latched p) (adcWait (s.emit .adcStart)) := adcWait_latched h
    unfold adcLoop
    split <;> rename_i hend <;> rw [hend] at hsample
    · exact ih _ hsample
    · exact hsample
    · exact hsample
    · trivial

theorem adcResume_latched {more total : Nat} {r : Sample} (h : SampleKeeps (Latched p) r) :
    AdcKeeps (Latched p) (adcResume more total r) := by
  cases r with
  | code c s => exact adcLoop_latched _ _ h
  | notDone s | noResult s => exact h
  | tooWide => trivial

theorem storeTemp_latched (total : Nat) {s : State} (h : Latched p s) : Keeps (Latched p) (storeTemp total s) := by
  unfold storeTemp
  split
  · exact fun _ hnext => nomatch hnext
  · exact release_latched h fun _ => readComparator_latched

theorem adcEnd_latched {r : AdcEnd} (h : AdcKeeps (Latched p) r) : Keeps (Latched p) (adcEnd r) := by
  cases r with
  | sum total s => exact storeTemp_latched total h
  | waiting t s => exact keeps_next h
  | tooWide => exact fun _ hnext => nomatch hnext

theorem sampleTemp_latched {s : State} (h : Latched p s) : Keeps (Latched p) (sampleTemp s) :=
  acquire_latched h fun _ h => adcEnd_latched (adcLoop_latched _ _ h)

theorem configWrites_latched (writes : List (Byte × Byte)) : ∀ {s : State}, Latched p s →
    WritesKeep (Latched p) (configWrites writes s) := by
  induction writes with
  | nil => exact fun h => h
  | cons w writes ih =>
    intro s h
    have hrun : Latched p (busRun (writeFrame s.cfg w.1 w.2) 0#8 s).state := busRun_latched _ _ h
    unfold configWrites
    split <;> rename_i hend <;> rw [hend] at hrun
    · exact ih hrun
    · exact hrun
    · exact hrun

theorem configResume_latched {rest : List (Byte × Byte)} {b : BusEnd} (h : Latched p b.state) :
    WritesKeep (Latched p) (configResume rest b) := by
  cases b with
  | done v s => exact configWrites_latched rest h
  | timeout s | waiting left s => exact h

theorem powerOff_latched {s : State} (h : Latched p s) : Keeps (Latched p) (powerOff s) :=
  release_latched h fun _ => sampleTemp_latched

theorem tearDownEnd_latched {b : BusEnd} (h : Latched p b.state) : Keeps (Latched p) (tearDownEnd b) := by
  cases b with
  | done v s | timeout s => exact powerOff_latched h
  | waiting left s => exact keeps_next h

theorem readEnd_latched {b : BusEnd} (h : Latched p b.state) : Keeps (Latched p) (readEnd b) := by
  cases b with
  | done v s | timeout s | waiting left s => exact keeps_next h

theorem writeEnd_latched {b : BusEnd} (h : Latched p b.state) : Keeps (Latched p) (writeEnd b) := by
  cases b with
  | done v s | timeout s | waiting left s => exact keeps_next h

theorem warmWait_latched {s : State} (h : Latched p s) : Keeps (Latched p) (warmWait s) := by
  unfold warmWait
  split <;> exact keeps_next h

/-- Power-up arms the edge interrupt once its writes are done, and drops a latched edge there (43 R214 line 6). -/
theorem powerUpEnd_latched {w : WritesEnd} (h : WritesKeep (Latched p) w) :
    Keeps (fun t => Latched p t ∨ Latched p.dropEdge t) (powerUpEnd w) := by
  cases w with
  | waiting t s => exact keeps_next (.inl h)
  | done s =>
    have harmed : Latched p.dropEdge (s.driveEdgeIrq true) := congrArg Pend.dropEdge h
    exact fun t hnext => .inr (sampleTemp_latched harmed t hnext)

end Latched

/-- Going on with an operation keeps the pending bits, but that power-up may drop the edge. -/
theorem resume_pend {k : Task} {s t : State} (h : resume k s = .next t) : t.pend = s.pend ∨ t.pend = s.pend.dropEdge := by
  have hstart : Latched s.pend (s.setTask none) := rfl
  unfold resume at h
  split at h
  · cases h
  · cases k with
    | powerUp left rest => exact powerUpEnd_latched (configResume_latched (busRun_latched _ _ hstart)) t h
    | readReg left => exact .inl (readEnd_latched (busRun_latched _ _ hstart) t h)
    | writeReg left => exact .inl (writeEnd_latched (busRun_latched _ _ hstart) t h)
    | subintWarm => exact .inl (warmWait_latched hstart t h)
    | tearDown left => exact .inl (tearDownEnd_latched (busRun_latched _ _ hstart) t h)
    | adcDone more total => exact .inl (adcEnd_latched (adcResume_latched (adcWait_latched hstart)) t h)
    | adcResult more total => exact .inl (adcEnd_latched (adcResume_latched (adcRead_latched hstart)) t h)
    | acmpOut => exact .inl (readComparator_latched hstart t h)

/-- No single update of an operation writes the command port (R285). -/
theorem closed_cmdIn (words : List CmdWord) : Closed (fun s => s.cmdIn = words) := by
  constructor <;> intros <;> assumption

theorem resume_cmdIn {k : Task} {s t : State} (h : resume k s = .next t) : t.cmdIn = s.cmdIn :=
  resume_keeps (closed_cmdIn s.cmdIn) k rfl t h

/-- Settles O10: a step inside an operation is `resume`, which leaves the command port alone and writes no pending bit but
the edge's; and an operation that is not accepted does nothing, an event that is not taken is latched. -/
theorem nothingRunsOutsideMain : Obligations.NothingRunsOutsideMain := by
  constructor
  · intro s k hctx htask
    have hstep : step s = resume k s.environment := serve_running hctx.symm htask
    refine ⟨hstep, fun t hnext => ?_⟩
    rw [hstep] at hnext
    refine ⟨resume_cmdIn hnext, fun e he => ?_⟩
    obtain hpend | hpend := resume_pend hnext
    · rw [hpend]
    · rw [hpend, Pend.get_dropEdge _ he]
  · intro i s hc hctx
    have hx : s.ctx ≠ .faulted := by
      intro hfaulted
      simp [hfaulted] at hctx
    have hbusy : ¬ (s.ctx = .main ∧ s.task = none) := by
      rintro ⟨hmain, htask⟩
      simp [hmain, htask] at hctx
    cases i with
    | rdsr n => exact (execRdsr_onCommand hx).trans (onCommand_deferred hc hx hbusy)
    | acq | rel | sel | enter | alloc | enq | deq | rdreg | wrreg => exact onCommand_deferred hc hx hbusy
    | subint | period | txrdy | edge => exact onEvent_deferred hc hbusy

end Sys2Proof.Machine

/-! Reset as an act of the environment, and boot (70_reset_and_hazards R310, R313). -/

namespace Sys2Proof.Machine

/-- Reset looks at no context, fault or running operation before it acts (R310). -/
@[simp] theorem State.envAct_reset (s : State) (c : Config) : s.envAct (.reset c) = s.resetWith c := rfl

/-- Boot enables the five clock domains in the order of R313. -/
theorem bootTrace_eq :
    bootTrace = [.clkEn .timer, .clkEn .comparator, .clkEn .adc, .clkEn .serialBus, .clkEn .gpio] := rfl

/-- Settles O55: whatever the block was doing, the act is `resetWith`, which keeps the ports of the old state and nothing
else of it, and adds the actions of boot to the trace. -/
theorem resetWorksInAnyContext : Obligations.ResetWorksInAnyContext := by
  intro s c
  rw [State.envAct_reset, State.resetWith, bootTrace_eq]

end Sys2Proof.Machine

/-! Decoder and encoder are inverse to each other (30_encoding R101, R102, R103, R106, R108). -/

namespace Sys2Proof

/-! ### The four fields of a command word (R101) -/

@[simp] theorem fieldOp_cmdWord (op : Opcode) (a b : Byte) : fieldOp (cmdWord op a b) = op.byte := by
  rw [fieldOp, cmdWord, BitVec.extractLsb'_append_eq_of_le (by decide), BitVec.extractLsb'_append_eq_of_le (by decide),
    BitVec.extractLsb'_append_eq_left]

@[simp] theorem fieldA_cmdWord (op : Opcode) (a b : Byte) : fieldA (cmdWord op a b) = a := by
  rw [fieldA, cmdWord, BitVec.extractLsb'_append_eq_of_le (by decide), BitVec.extractLsb'_append_eq_of_le (by decide),
    BitVec.extractLsb'_append_eq_right]

@[simp] theorem fieldB_cmdWord (op : Opcode) (a b : Byte) : fieldB (cmdWord op a b) = b := by
  rw [fieldB, cmdWord, BitVec.extractLsb'_append_eq_of_le (by decide), BitVec.extractLsb'_append_eq_right]

@[simp] theorem fieldZ_cmdWord (op : Opcode) (a b : Byte) : fieldZ (cmdWord op a b) = 0#8 := by
  rw [fieldZ, cmdWord, BitVec.extractLsb'_append_eq_right]

/-- The fields are the whole word. -/
theorem fields_append (w : CmdWord) : fieldOp w ++ fieldA w ++ fieldB w ++ fieldZ w = w := by
  unfold fieldOp fieldA fieldB fieldZ
  rw [BitVec.extractLsb'_append_extractLsb'_eq_extractLsb' (by decide),
    BitVec.extractLsb'_append_extractLsb'_eq_extractLsb' (by decide),
    BitVec.extractLsb'_append_extractLsb'_eq_extractLsb' (by decide)]
  exact BitVec.extractLsb'_eq_self

/-- A word with a defined opcode and `Z = 0x00` is determined by its operand fields. -/
theorem cmdWord_of_fields {w : CmdWord} {op : Opcode} (hop : fieldOp w = op.byte) (hz : fieldZ w = 0#8) :
    cmdWord op (fieldA w) (fieldB w) = w := by
  rw [cmdWord, ← hop, ← hz, fields_append]

/-! ### Commands -/

/-- The operand fields a command does not use are 0x00 (R106). -/
def Opcode.UnusedZero (op : Opcode) (a b : Byte) : Prop :=
  (op.usesA = false → a = 0#8) ∧ (op.usesB = false → b = 0#8)

/-- The words that decode, and what they decode to: those with a defined opcode and nothing in an unused field. -/
theorem decodeCmd_eq_ok_iff {w : CmdWord} {i : Instr} : decodeCmd w = .ok i ↔
    ∃ op a b, Opcode.UnusedZero op a b ∧ cmdWord op a b = w ∧ op.instr a b = i := by
  constructor
  · intro h
    unfold decodeCmd at h
    split at h
    · cases h
    next op hop =>
      split_ifs at h with hz hb ha
      cases h
      simp only [not_and, not_not] at hz hb ha
      exact ⟨op, _, _, ⟨ha, hb⟩, cmdWord_of_fields (opcodeOf_eq_some_iff.mp hop) hz, rfl⟩
  · rintro ⟨op, a, b, ⟨ha, hb⟩, rfl, rfl⟩
    have hop : opcodeOf (fieldOp (cmdWord op a b)) = some op := opcodeOf_eq_some_iff.mpr (fieldOp_cmdWord op a b)
    simp only [decodeCmd, hop, fieldA_cmdWord, fieldB_cmdWord, fieldZ_cmdWord]
    rw [if_neg (not_not.mpr rfl), if_neg fun h => h.2 (hb h.1), if_neg fun h => h.2 (ha h.1)]

/-- The encoder puts an operation's operands in their fields and 0x00 in the others (R101, R103). -/
theorem encode_command {op : Opcode} {a b : Byte} (h : op.UnusedZero a b) :
    encode (op.instr a b) = .cmd (cmdWord op a b) := by
  obtain ⟨ha, hb⟩ := h
  cases op with
  | wrreg => rfl
  | acq | rel | alloc | enq | rdreg | rdsr => rw [hb rfl]; rfl
  | sel | enter | deq => rw [ha rfl, hb rfl]; rfl

/-! ### Events -/

theorem encode_event (e : EventCode) : encode e.instr = .evt e.code := by
  cases e <;> rfl

@[simp] theorem decodeEvt_code (e : EventCode) : decodeEvt e.code = e := by
  cases e <;> rfl

/-- Every code is that of the event it names: the four events use up the two bits (R108). -/
@[simp] theorem code_decodeEvt (c : EvtWord) : (decodeEvt c).code = c := by
  revert c
  decide

/-! ### All operations -/

/-- An operation is a command, of some opcode and operands, or an event (R102, R108). -/
theorem Instr.command_or_event (i : Instr) :
    (∃ op a b, Opcode.UnusedZero op a b ∧ op.instr a b = i) ∨ ∃ e : EventCode, e.instr = i := by
  cases i with
  | acq m => exact .inl ⟨.acq, m, 0#8, ⟨nofun, fun _ => rfl⟩, rfl⟩
  | rel m => exact .inl ⟨.rel, m, 0#8, ⟨nofun, fun _ => rfl⟩, rfl⟩
  | sel => exact .inl ⟨.sel, 0#8, 0#8, ⟨fun _ => rfl, fun _ => rfl⟩, rfl⟩
  | enter => exact .inl ⟨.enter, 0#8, 0#8, ⟨fun _ => rfl, fun _ => rfl⟩, rfl⟩
  | alloc c => exact .inl ⟨.alloc, c, 0#8, ⟨nofun, fun _ => rfl⟩, rfl⟩
  | enq b => exact .inl ⟨.enq, b, 0#8, ⟨nofun, fun _ => rfl⟩, rfl⟩
  | deq => exact .inl ⟨.deq, 0#8, 0#8, ⟨fun _ => rfl, fun _ => rfl⟩, rfl⟩
  | rdreg a => exact .inl ⟨.rdreg, a, 0#8, ⟨nofun, fun _ => rfl⟩, rfl⟩
  | wrreg a v => exact .inl ⟨.wrreg, a, v, ⟨nofun, nofun⟩, rfl⟩
  | rdsr n => exact .inl ⟨.rdsr, n, 0#8, ⟨nofun, fun _ => rfl⟩, rfl⟩
  | subint => exact .inr ⟨.subint, rfl⟩
  | period => exact .inr ⟨.period, rfl⟩
  | txrdy => exact .inr ⟨.txrdy, rfl⟩
  | edge => exact .inr ⟨.edge, rfl⟩

/-- Settles O1: a command's word has its opcode, its operands and nothing in an unused field, so it decodes to it; an
event's code names the event. -/
theorem decodeInvertsEncode : Obligations.DecodeInvertsEncode := by
  intro i
  obtain ⟨op, a, b, hunused, rfl⟩ | ⟨e, rfl⟩ := i.command_or_event
  · rw [encode_command hunused]
    exact decodeCmd_eq_ok_iff.mpr ⟨op, a, b, hunused, rfl, rfl⟩
  · rw [encode_event, decode, decodeEvt_code]

/-- Settles O2, by the port: a word that decodes is a command word with nothing in an unused field, and every event code
is that of its event. -/
theorem encodeInvertsDecode : Obligations.EncodeInvertsDecode := by
  intro p i h
  cases p with
  | cmd w =>
    obtain ⟨op, a, b, hunused, rfl, rfl⟩ := decodeCmd_eq_ok_iff.mp h
    exact encode_command hunused
  | evt c =>
    cases h
    rw [encode_event, code_decodeEvt]

/-- Settles O4: each word is the encoding of its operation, so O1 decodes it. -/
theorem specWordsDecode : Obligations.SpecWordsDecode :=
  ⟨decodeInvertsEncode (.acq 2#8), decodeInvertsEncode .sel, decodeInvertsEncode (.enq 0x41#8),
    decodeInvertsEncode (.wrreg 0x05#8 0xA7#8), decodeInvertsEncode (.rdsr 0x30#8), decodeInvertsEncode .period⟩

end Sys2Proof

/-! The parts below are elaborated one declaration after the other, so that the memory which one of them needs
is free again for the next. -/

section

set_option Elab.async false

/-! The duty-cycle sequencer's short handlers (43_duty_cycle_sequencer R211, R235, R236) and the hysteresis of the
comparator's readings (R228, R229, R237). -/

namespace Sys2Proof.Machine

/-! ### `SUBINT` -/

theorem dropWhile_not_replicate_false (k : Nat) (l : List Bool) :
    (List.replicate k false ++ l).dropWhile (fun a => !a) = l.dropWhile (fun a => !a) :=
  List.dropWhile_append_of_pos fun a ha => by rewrite [List.eq_of_mem_replicate ha]; rfl

/-- The wait of line 3 ends at the first `true` (R211). -/
theorem warmWait_warm {s : State} {k : Nat} {more : List Bool}
    (h : s.env.acmpWarm = List.replicate k false ++ true :: more) :
    warmWait s = .next (s.setEnv { s.env with acmpWarm := more }).handlerReturn := by
  have hfirst : s.env.acmpWarm.dropWhile (fun a => !a) = true :: more := by
    rewrite [h, dropWhile_not_replicate_false]
    rfl
  rw [warmWait, hfirst]

/-- Without a `true` the handler stays at the wait (70 R325). -/
theorem warmWait_cold {s : State} {k : Nat} (h : s.env.acmpWarm = List.replicate k false) :
    warmWait s = suspend .subintWarm (s.setEnv { s.env with acmpWarm := [] }) := by
  have hnone : s.env.acmpWarm.dropWhile (fun a => !a) = [] := by
    rewrite [h, ← List.append_nil (List.replicate k false), dropWhile_not_replicate_false]
    rfl
  rw [warmWait, hnone]

/-- Lines 1 and 2, cell by cell (R211). -/
theorem takeEvent_subint_armed (s : State) : ((s.takeEvent .subint).driveAcmp true).drive .excite true =
    { s with
      pend := { s.pend with subint := false }
      out := { s.out with excite := true, acmpEn := true }
      trace := s.trace ++ [.acmpEn, .gpio .excite true]
      ctx := .handler } := by
  simp [State.drive, State.driveAcmp, State.emit, State.setOut, State.takeEvent, State.setPend, State.setCtx, Pend.put]

/-- Settles O36, by the answers to the one question the handler asks. -/
theorem subintArmsTheComparator : Obligations.SubintArmsTheComparator := by
  intro s k hs
  have ⟨_, hctx, _⟩ := hs
  rewrite [exec_subint_ready hs, subintHandler, takeEvent_subint_armed]
  refine ⟨fun r hwarm => ?_, fun hcold => ?_⟩
  · refine Eq.trans (warmWait_warm (k := k) (more := r) ?_) ?_
    · exact hwarm
    · rewrite [State.handlerReturn, State.setCtx, ← hctx]
      rfl
  · exact warmWait_cold (k := k) hcold

/-! ### `EDGE` -/

/-- Settles O47: the bit is cleared, the interrupt forwarded, and the context is `MAIN` again. -/
theorem edgeIsForwarded : Obligations.EdgeIsForwarded := by
  intro s hs
  have ⟨_, hctx, _⟩ := hs
  rewrite [exec_edge_ready hs, State.handlerReturn, State.setCtx, ← hctx]
  rfl

/-! ### `TXRDY` -/

/-- With a byte there, it is sent and the handler returns (R235 lines 2 and 3). -/
theorem RingOk.sendNext_eq {s : State} (hr : RingOk s) (h : 0 < s.rbCount.toNat) :
    ∃ v, Memory.read s.rbMem s.rbTail.toNat = some v ∧
      sendNext s = .next (s.dequeued.emit (.txSend v)).handlerReturn := by
  obtain ⟨v, hv, htaken⟩ := hr.rbDequeue_eq h
  exact ⟨v, hv, by rw [sendNext, htaken]⟩

/-- Taking an event touches no cell of the ring. -/
theorem RingOk.takeEvent {s : State} (hr : RingOk s) (e : EventCode) : RingOk (s.takeEvent e) :=
  ⟨hr.count, hr.cap, hr.cursors, hr.noStorage, hr.canonical, hr.content⟩

theorem txrdyHandler_sends {s : State} (h : 0 < s.rbCount.toNat) : txrdyHandler s = sendNext s :=
  if_neg fun h0 => by simp [h0] at h

theorem txrdyHandler_empty {s : State} (h : s.rbCount = 0#8) :
    txrdyHandler s = afterHold (fun s' => .next s'.handlerReturn) (release s.cfg.mTx s) :=
  if_pos h

/-- Settles O46, by whether there is a byte, and on an empty ring by whether there is a hold. -/
theorem txrdySendsOrReleases : Obligations.TxrdySendsOrReleases := by
  intro s hs hr
  have ⟨_, hctx, htask⟩ := hs
  rewrite [exec_txrdy_ready hs]
  refine ⟨fun (hpos : 0 < (s.takeEvent .txrdy).rbCount.toNat) => ?_,
    fun (hempty : (s.takeEvent .txrdy).rbCount = 0#8) hheld => ?_,
    fun (hempty : (s.takeEvent .txrdy).rbCount = 0#8) hzero => ?_⟩
  · obtain ⟨v, hv, hsent⟩ := (hr.takeEvent .txrdy).sendNext_eq hpos
    refine ⟨v, Memory.erase s.rbMem s.rbTail.toNat, hv, fun a ha => Memory.read_erase_other ha, ?_⟩
    rewrite [txrdyHandler_sends hpos, hsent, State.dequeued_eq hpos, State.handlerReturn, State.setCtx, ← hctx]
    rfl
  · rewrite [txrdyHandler_empty hempty, State.takeEvent_cfg, release_ok (s := s.takeEvent .txrdy) hheld, afterHold,
      State.handlerReturn, State.setCtx, ← hctx]
    rfl
  · have hfatal : release s.cfg.mTx (s.takeEvent .txrdy) = .fatal ((s.takeEvent .txrdy).raiseFatal .sleepHoldMismatch) :=
      if_pos hzero
    rewrite [txrdyHandler_empty hempty, State.takeEvent_cfg, hfatal,
      State.raiseFatal_idle (s := s.takeEvent .txrdy) htask]
    rfl

/-! ### The hysteresis -/

/-- Step 4 cell by cell, changed reading or not (R228, R229). -/
theorem State.hysteresis_eq (s : State) (c : Bool) : s.hysteresis c =
    { s with
      lastCmp := c
      led := if c = s.lastCmp then s.led else !s.led
      thr := if c = s.lastCmp then s.thr else s.thr.toggle
      out := { s.out with status := if c = s.lastCmp then s.out.status else !s.led }
      trace := s.trace ++
        (if c = s.lastCmp then []
         else [.acmpRef (if s.thr = .low then s.cfg.refHigh else s.cfg.refLow), .gpio .status (!s.led)]) } := by
  by_cases h : c = s.lastCmp
  · rewrite [State.hysteresis_same h]
    simp [h]
  · have href : refChannel s.cfg s.thr.toggle = if s.thr = .low then s.cfg.refHigh else s.cfg.refLow := by
      cases s.thr <;> rfl
    simp [State.hysteresis, h, State.toggleOutputs, href, State.emit, State.drive, State.setOut]

/-- Settles O44: `hysteresis_eq` for a change, `hysteresis_same` for an unchanged reading. -/
theorem hysteresisTogglesOnAChange : Obligations.HysteresisTogglesOnAChange := by
  refine fun s c => ⟨fun hchange => ?_, State.hysteresis_same⟩
  rewrite [State.hysteresis_eq]
  simp only [if_neg hchange]
  cases s.thr <;> rfl

/-- How often a reading differs from the one before it, `c` being the one before the first (R237). -/
def readingChanges (c : Bool) (readings : List Bool) : Nat :=
  ((c :: readings).zip readings).countP fun p => p.1 ≠ p.2

theorem readingChanges_cons (c d : Bool) (rest : List Bool) :
    readingChanges c (d :: rest) = readingChanges d rest + if c ≠ d then 1 else 0 := by
  simp [readingChanges, List.countP_cons]

/-- One reading: two actions and a toggle of level and output if it is a change, else nothing (R229). -/
theorem State.hysteresis_toggles (s : State) (c : Bool) :
    (s.hysteresis c).trace.length = s.trace.length + 2 * (if s.lastCmp ≠ c then 1 else 0) ∧
    (s.hysteresis c).thr = (if s.lastCmp ≠ c then s.thr.toggle else s.thr) ∧
    (s.hysteresis c).led = (if s.lastCmp ≠ c then !s.led else s.led) := by
  rewrite [State.hysteresis_eq]
  by_cases h : c = s.lastCmp
  · simp [h]
  · simp [h, Ne.symm h]

/-- Of two levels, one that differs from the toggled one is the other. -/
theorem Level.eq_toggle_iff (l m : Level) : l = m.toggle ↔ ¬ l = m := by cases l <;> cases m <;> decide

/-- The counting behind R237, by induction on the readings: a toggle exchanges even and odd. -/
theorem hysteresis_foldl_toggles (readings : List Bool) : ∀ s : State,
    (readings.foldl State.hysteresis s).trace.length = s.trace.length + 2 * readingChanges s.lastCmp readings ∧
    ((readings.foldl State.hysteresis s).thr = s.thr ↔ readingChanges s.lastCmp readings % 2 = 0) ∧
    ((readings.foldl State.hysteresis s).led = s.led ↔ readingChanges s.lastCmp readings % 2 = 0) ∧
    ((readings.foldl State.hysteresis s).lastCmp = s.lastCmp ↔ readingChanges s.lastCmp readings % 2 = 0) := by
  induction readings with
  | nil => intro s; simp [readingChanges]
  | cons c rest ih =>
    intro s
    obtain ⟨htrace, hthr, hled⟩ := s.hysteresis_toggles c
    obtain ⟨ihtrace, ihthr, ihled, ihcmp⟩ := ih (s.hysteresis c)
    rewrite [State.hysteresis_lastCmp] at ihtrace ihthr ihled ihcmp
    rewrite [htrace] at ihtrace
    rewrite [hthr] at ihthr
    rewrite [hled] at ihled
    rewrite [List.foldl_cons, readingChanges_cons]
    by_cases hc : s.lastCmp = c
    · simp only [hc, ne_eq, not_true_eq_false, if_false, Nat.add_zero, Nat.mul_zero] at ihtrace ihthr ihled ⊢
      exact ⟨ihtrace, ihthr, ihled, ihcmp⟩
    · have hodd : (readingChanges c rest + 1) % 2 = 0 ↔ ¬ readingChanges c rest % 2 = 0 := by omega
      simp only [ne_eq, hc, not_false_eq_true, if_true] at ihtrace ihthr ihled ⊢
      refine ⟨by omega, ?_, ?_, ?_⟩
      · rw [hodd, ← ihthr, Level.eq_toggle_iff, not_not]
      · rw [hodd, ← ihled, Bool.eq_not, not_not]
      · rw [hodd, ← ihcmp, Bool.eq_not.mpr (Ne.symm hc), Bool.eq_not, not_not]

/-- Settles O45, by `hysteresis_foldl_toggles`. -/
theorem levelTogglesOncePerChange : Obligations.LevelTogglesOncePerChange :=
  hysteresis_foldl_toggles

end Sys2Proof.Machine

/-! The conversions of `PERIOD` step 2 (43_duty_cycle_sequencer R220) and their sum and mean (R221). -/

namespace Sys2Proof.Machine

theorem adcRead_code {s : State} {c : Nat} {more : List Nat} (h : s.env.adcResult = c :: more) (hc : c < 2 ^ s.cfg.adcW) :
    adcRead s = .code c (s.setEnv { s.env with adcResult := more }) := by
  rewrite [adcRead, h]
  exact if_pos hc

/-- The wait of line 5 ends at the first `true` (R220). -/
theorem adcWait_done {s : State} {k : Nat} {more : List Bool} (h : s.env.adcDone = List.replicate k false ++ true :: more) :
    adcWait s = adcRead (s.setEnv { s.env with adcDone := more }) := by
  have hfirst : s.env.adcDone.dropWhile (fun a => !a) = true :: more := by
    rewrite [h, dropWhile_not_replicate_false]
    rfl
  rw [adcWait, hfirst]

/-- Without a `true` the conversion is not done (70 R325). -/
theorem adcWait_silent {s : State} {k : Nat} (h : s.env.adcDone = List.replicate k false) :
    adcWait s = .notDone (s.setEnv { s.env with adcDone := [] }) := by
  have hnone : s.env.adcDone.dropWhile (fun a => !a) = [] := by
    rewrite [h, ← List.append_nil (List.replicate k false), dropWhile_not_replicate_false]
    rfl
  rw [adcWait, hnone]

/-- The state after `n` conversions, `done` and `results` being the answers left. -/
def State.converted (s : State) (n : Nat) (done : List Bool) (results : List Nat) : State :=
  { s with
    env := { s.env with adcDone := done, adcResult := results }
    trace := s.trace ++ List.replicate n .adcStart }

/-- One conversion that is done, as a part of several. -/
theorem converted_succ (s : State) (n : Nat) (done d : List Bool) (results r : List Nat) :
    (((s.emit .adcStart).setEnv { s.env with adcDone := d, adcResult := r })).converted n done results =
      s.converted (n + 1) done results := by
  simp [State.converted, State.emit, State.setEnv, List.replicate_succ]

/-- The loop takes each answered conversion, however often it is asked for, and adds its code (R220). -/
theorem adcLoop_answered (n : Nat) (done : List Bool) (rest : List Nat) (codes : List Nat) :
    ∀ (waits : List Nat) (total : Nat) (s : State), waits.length = codes.length → (∀ k ∈ codes, k < 2 ^ s.cfg.adcW) →
      s.env.adcDone = doneAnswers waits ++ done → s.env.adcResult = codes ++ rest →
      adcLoop (codes.length + n) total s = adcLoop n (total + codes.sum) (s.converted codes.length done rest) := by
  induction codes with
  | nil =>
    intro waits total s hlen _ hdone hresult
    obtain rfl : waits = [] := List.length_eq_zero_iff.mp hlen
    obtain rfl : s.env.adcDone = done := hdone
    obtain rfl : s.env.adcResult = rest := hresult
    simp [State.converted]
  | cons c codes ih =>
    intro waits total s hlen hcodes hdone hresult
    obtain ⟨w, waits, rfl⟩ := List.exists_cons_of_length_eq_add_one hlen
    obtain ⟨hc, hcodes⟩ := List.forall_mem_cons.mp hcodes
    have hfirst : s.env.adcDone = List.replicate w false ++ true :: (doneAnswers waits ++ done) := by
      simpa [doneAnswers] using hdone
    have hone : adcWait (s.emit .adcStart) =
        .code c ((s.emit .adcStart).setEnv { s.env with adcDone := doneAnswers waits ++ done, adcResult := codes ++ rest }) :=
      (adcWait_done (s := s.emit .adcStart) hfirst).trans
        (adcRead_code (s := (s.emit .adcStart).setEnv _) hresult hc)
    rewrite [List.length_cons, Nat.add_right_comm, adcLoop, hone]
    refine Eq.trans (ih waits (total + c) _ (Nat.succ.inj hlen) ?_ ?_ ?_) ?_
    · exact hcodes
    · rfl
    · rfl
    · rw [converted_succ, List.sum_cons, Nat.add_assoc]

/-- A conversion that is never done stops the loop there (70 R325). -/
theorem adcLoop_silent {s : State} {j : Nat} (n total : Nat) (h : s.env.adcDone = List.replicate j false) :
    adcLoop (n + 1) total s =
      .waiting (.adcDone n total) ((s.emit .adcStart).setEnv { s.env with adcDone := [] }) := by
  rewrite [adcLoop, adcWait_silent (s := s.emit .adcStart) h]
  rfl

/-- A sum of codes below `b` is at most that many times `b - 1`. -/
theorem sum_le_of_forall_lt {b : Nat} {codes : List Nat} (h : ∀ k ∈ codes, k < b) : codes.sum ≤ codes.length * (b - 1) := by
  simpa using List.sum_le_card_nsmul codes (b - 1) fun k hk => Nat.le_sub_one_of_lt (h k hk)

/-- The bounds that R10 puts on the conversions. -/
theorem adc_of_configOk {c : Config} (hc : configOk c = true) : 0 < c.adcSamples ∧ c.adcSamples ≤ 255 ∧ c.adcW ≤ 16 := by
  obtain ⟨-, -, -, -, -, -, -, -, -, -, -, hpos, h255, -, hw16, -⟩ := (configOk_iff c).mp hc
  exact ⟨hpos, h255, hw16⟩

/-- The sum needs 24 bits and the mean no more than a code (R221). -/
theorem sum_and_mean_in_range {c : Config} (hc : configOk c = true) {codes : List Nat} (hlen : codes.length = c.adcSamples)
    (hcodes : ∀ k ∈ codes, k < 2 ^ c.adcW) : codes.sum < 2 ^ 24 ∧ codes.sum / c.adcSamples < 2 ^ c.adcW := by
  obtain ⟨hsamples, hsamples255, hw16⟩ := adc_of_configOk hc
  have hsum : codes.sum ≤ c.adcSamples * (2 ^ c.adcW - 1) := hlen ▸ sum_le_of_forall_lt hcodes
  have hpos : 0 < 2 ^ c.adcW := Nat.two_pow_pos _
  have hpow : 2 ^ c.adcW ≤ 2 ^ 16 := Nat.pow_le_pow_right (by decide) hw16
  constructor
  · calc codes.sum ≤ c.adcSamples * (2 ^ c.adcW - 1) := hsum
      _ ≤ 255 * (2 ^ 16 - 1) := Nat.mul_le_mul hsamples255 (by omega)
      _ < 2 ^ 24 := by decide
  · rewrite [Nat.div_lt_iff_lt_mul hsamples]
    calc codes.sum ≤ c.adcSamples * (2 ^ c.adcW - 1) := hsum
      _ < c.adcSamples * 2 ^ c.adcW := Nat.mul_lt_mul_of_pos_left (by omega) hsamples
      _ = 2 ^ c.adcW * c.adcSamples := Nat.mul_comm _ _

/-- Settles O43: the loop over all conversions, the bounds, and the two vectors of R221. -/
theorem meanIsARawCode : Obligations.MeanIsARawCode := by
  refine ⟨fun s waits codes rest done hlen hcodes hdone hresult => ?_,
    fun c codes hc hlen hcodes => sum_and_mean_in_range hc hlen hcodes, by decide⟩
  have hloop := adcLoop_answered 0 done rest codes waits 0 s hlen hcodes hdone hresult
  rewrite [Nat.add_zero, Nat.zero_add] at hloop
  exact hloop

end Sys2Proof.Machine


/-! Binary32 (43_duty_cycle_sequencer R225, R226): the fields of an encoding, the numbers a rounding leaves as they are, the
calibration formula, and a zero subtrahend. -/

namespace Sys2Proof.Machine

/-! ### Fields of an encoding -/

section Fields
variable (sign : Bool) {e f : Nat} (he : e < 2 ^ 8) (hf : f < 2 ^ 23)
include he hf

/-- Sign, exponent and fraction side by side. -/
theorem toNat_f32Pack : (f32Pack sign (e * 2 ^ 23 + f)).toNat = (sign.toNat * 2 ^ 8 + e) * 2 ^ 23 + f := by
  have hsum : e * 2 ^ 23 + f + (if sign then 2 ^ 31 else 0) = (sign.toNat * 2 ^ 8 + e) * 2 ^ 23 + f := by
    cases sign with
    | false => simp
    | true => rewrite [if_pos rfl, Bool.toNat_true]; ring
  have hlt : (sign.toNat * 2 ^ 8 + e) * 2 ^ 23 + f < 2 ^ 32 := by
    have := sign.toNat_lt
    omega
  rw [f32Pack, BitVec.toNat_ofNat, hsum, Nat.mod_eq_of_lt hlt]

theorem f32Exp_pack : f32Exp (f32Pack sign (e * 2 ^ 23 + f)) = e := by
  rw [f32Exp, BitVec.extractLsb'_toNat, toNat_f32Pack sign he hf, Nat.shiftRight_eq_div_pow,
    Nat.mul_comm _ (2 ^ 23), Nat.mul_add_div (by positivity), Nat.div_eq_of_lt hf, Nat.add_zero,
    Nat.mul_add_mod_of_lt he]

theorem f32Frac_pack : f32Frac (f32Pack sign (e * 2 ^ 23 + f)) = f := by
  rw [f32Frac, BitVec.extractLsb'_toNat, toNat_f32Pack sign he hf, Nat.shiftRight_zero,
    Nat.mul_add_mod_of_lt hf]

theorem f32Sign_pack : f32Sign (f32Pack sign (e * 2 ^ 23 + f)) = sign := by
  rewrite [f32Sign, BitVec.getLsbD, toNat_f32Pack sign he hf, Nat.testBit_eq_decide_div_mod_eq, pow_add 2 23 8,
    ← Nat.div_div_eq_div_mul, Nat.mul_comm _ (2 ^ 23), Nat.mul_add_div (by positivity), Nat.div_eq_of_lt hf, Nat.add_zero,
    Nat.mul_comm, Nat.mul_add_div (by positivity), Nat.div_eq_of_lt he]
  cases sign <;> rfl

end Fields

theorem f32Exp_lt (x : F32) : f32Exp x < 2 ^ 8 := (x.extractLsb' 23 8).isLt

theorem f32Frac_lt (x : F32) : f32Frac x < 2 ^ 23 := (x.extractLsb' 0 23).isLt

/-- An encoding is its sign, exponent and fraction. -/
theorem f32Pack_fields (x : F32) : f32Pack (f32Sign x) (f32Exp x * 2 ^ 23 + f32Frac x) = x := by
  have hsign : (f32Sign x).toNat = x.toNat / 2 ^ 23 / 2 ^ 8 := by
    rewrite [f32Sign, BitVec.getLsbD, Nat.toNat_testBit, Nat.div_div_eq_div_mul,
      Nat.mod_eq_of_lt (Nat.div_lt_of_lt_mul x.isLt)]
    exact congrArg (x.toNat / ·) (by decide)
  apply BitVec.eq_of_toNat_eq
  rw [toNat_f32Pack _ (f32Exp_lt x) (f32Frac_lt x), hsign, f32Exp, f32Frac, BitVec.extractLsb'_toNat,
    BitVec.extractLsb'_toNat, Nat.shiftRight_eq_div_pow, Nat.shiftRight_zero, Nat.div_add_mod', Nat.div_add_mod']

/-! ### What the operations answer is a number -/

/-- A finite number or an infinity, no NaN (43 R226). -/
def f32Number (x : F32) : Prop := f32Finite x = true ∨ f32Infinite x = true

/-- The magnitudes up to that of the infinities are numbers. -/
theorem f32Number_pack (sign : Bool) {mag : Nat} (h : mag ≤ f32InfMag) : f32Number (f32Pack sign mag) := by
  obtain hlt | rfl := h.lt_or_eq
  · have he : mag / 2 ^ 23 < 255 := Nat.div_lt_of_lt_mul hlt
    have hexp := f32Exp_pack sign (he.trans (by decide)) (Nat.mod_lt mag (by decide : 0 < 2 ^ 23))
    rewrite [Nat.div_add_mod'] at hexp
    exact .inl (decide_eq_true (hexp ▸ he.ne))
  · exact .inr (by cases sign <;> rfl)

/-- Rounding answers a number: what is too large is an infinity. -/
theorem f32Number_round (sign : Bool) (n d : Nat) : f32Number (f32Round sign n d) := by
  unfold f32Round
  split
  · exact f32Number_pack sign (Nat.zero_le _)
  · exact f32Number_pack sign (Nat.min_le_right _ _)

/-- A quotient of finite numbers by one that is not a zero is a number. -/
theorem exists_f32Div {a b : F32} (ha : f32Finite a = true) (hb : f32Finite b = true) (h0 : f32Zero b = false) :
    ∃ q, f32Div a b = some q ∧ f32Number q := by
  rewrite [f32Div, if_pos ⟨ha, hb, by rewrite [h0]; exact Bool.false_ne_true⟩]
  exact ⟨_, rfl, f32Number_round _ _ _⟩

/-- From a finite number any number can be subtracted, a quotient that overflowed too, and the difference is a number. -/
theorem exists_f32Sub {a b : F32} (ha : f32Finite a = true) (hb : f32Number b) :
    ∃ t, f32Sub a b = some t ∧ f32Number t := by
  unfold f32Sub
  rewrite [if_neg (not_not.mpr ha)]
  split
  · exact ⟨_, rfl, f32Number_pack _ le_rfl⟩
  · rename_i hinf
    rewrite [if_neg (not_not.mpr (hb.resolve_right hinf))]
    dsimp only
    split
    · exact ⟨_, rfl, f32Number_pack _ (Nat.zero_le _)⟩
    · exact ⟨_, rfl, f32Number_round _ _ _⟩

/-! ### What rounding leaves as it is -/

/-- `floorLog2` of a quotient by a power of two. -/
theorem floorLog2_two_pow {n : Nat} (hn : n ≠ 0) (j : Nat) : floorLog2 n (2 ^ j) = (n.log2 : Int) - j := by
  unfold floorLog2
  rewrite [Nat.log2_two_pow]
  refine if_pos ?_
  rewrite [neg_sub, Int.toNat_sub, Int.toNat_sub]
  calc 2 ^ j * 2 ^ (n.log2 - j) = 2 ^ n.log2 * 2 ^ (j - n.log2) := by
        rw [← pow_add, ← pow_add, add_tsub_eq_max, add_tsub_eq_max, max_comm]
    _ ≤ n * 2 ^ (j - n.log2) := Nat.mul_le_mul_right _ (Nat.log2_self_le hn)

theorem log2_mul_two_pow {a : Nat} (ha : a ≠ 0) (k : Nat) : (a * 2 ^ k).log2 = a.log2 + k := by
  refine (Nat.log2_eq_iff (Nat.mul_ne_zero ha (by positivity))).mpr ⟨?_, ?_⟩
  · rewrite [pow_add]
    exact Nat.mul_le_mul_right _ (Nat.log2_self_le ha)
  · rewrite [Nat.add_right_comm, pow_add]
    exact Nat.mul_lt_mul_of_pos_right Nat.lt_log2_self (by positivity)

/-- A quotient that is an integer is that integer. -/
theorem roundDiv_mul_self (m : Nat) {d : Nat} (hd : 0 < d) : roundDiv (m * d) d = m := by
  simp [roundDiv, hd]

/-- The significand of an exponent field `e` and a fraction `f`. -/
def mantOf (e f : Nat) : Nat := if e = 0 then f else 2 ^ 23 + f

theorem mantOf_succ (e f : Nat) : mantOf (e + 1) f = 2 ^ 23 + f := if_neg e.succ_ne_zero

theorem f32Mant_eq (x : F32) : f32Mant x = mantOf (f32Exp x) (f32Frac x) := rfl

theorem f32Pow_add (x : F32) : (f32Pow x + 149).toNat = f32Exp x - 1 := by
  unfold f32Pow
  split <;> omega

/-- Exponent field and fraction, as a significand carried into the exponent. -/
theorem mul_add_mantOf (e f : Nat) : (e - 1) * 2 ^ 23 + mantOf e f = e * 2 ^ 23 + f := by
  cases e with
  | zero => simp [mantOf]
  | succ e =>
    rewrite [mantOf_succ, Nat.add_sub_cancel]
    ring

section SideBySide
variable {m E n j : Nat} (hn : n * 2 ^ 149 = m * 2 ^ E * 2 ^ j)
include hn

/-- The quotient that a rounding in units of `2 ^ (E - 149)` looks at, when `n / 2 ^ j` is `m` of these units. -/
theorem mul_two_pow_sub_of_units : n * 2 ^ (149 - E) = m * (2 ^ j * 2 ^ (E - 149)) := by
  refine Nat.eq_of_mul_eq_mul_right (Nat.two_pow_pos (min 149 E)) ?_
  calc n * 2 ^ (149 - E) * 2 ^ min 149 E
      = m * 2 ^ E * 2 ^ j := by rw [Nat.mul_assoc, ← pow_add, Nat.sub_add_min_cancel, hn]
    _ = m * (2 ^ (E - 149) * 2 ^ min 149 E) * 2 ^ j := by rw [← pow_add, min_comm, Nat.sub_add_min_cancel]
    _ = m * (2 ^ j * 2 ^ (E - 149)) * 2 ^ min 149 E := by ring

/-- With a leading bit at place 23, or below it in the least unit, the exponent of the rounding is that of the unit. -/
theorem max_floorLog2_of_units (hm : m ≠ 0) (hn0 : n ≠ 0) (hlead : E ≠ 0 → 23 ≤ m.log2) (hlt : m.log2 < 24) :
    max (floorLog2 n (2 ^ j)) (-126) = (E : Int) - 126 := by
  have hlog : n.log2 + 149 = m.log2 + E + j := by
    rw [← log2_mul_two_pow hn0, hn, log2_mul_two_pow (Nat.mul_ne_zero hm (Nat.two_pow_pos E).ne'), log2_mul_two_pow hm]
  rewrite [floorLog2_two_pow hn0]
  omega

/-- A significand of 24 bits at most is not rounded: it is packed with its exponent. -/
theorem f32Round_of_units (hm : m ≠ 0) (hlead : E ≠ 0 → 23 ≤ m.log2) (hlt : m.log2 < 24)
    (hfinite : E * 2 ^ 23 + m ≤ f32InfMag) (sign : Bool) :
    f32Round sign n (2 ^ j) = f32Pack sign (E * 2 ^ 23 + m) := by
  have hn0 : n ≠ 0 := fun h0 => Nat.mul_ne_zero (Nat.mul_ne_zero hm (Nat.two_pow_pos E).ne') (Nat.two_pow_pos j).ne'
    (hn.symm.trans (by rw [h0, Nat.zero_mul]))
  have hup : (23 - ((E : Int) - 126)).toNat = 149 - E :=
    (congrArg Int.toNat (sub_sub_eq_add_sub _ _ _)).trans (Int.toNat_sub 149 E)
  have hdown : ((E : Int) - 126 - 23).toNat = E - 149 :=
    (congrArg Int.toNat (sub_sub _ _ _)).trans (Int.toNat_sub E 149)
  rewrite [f32Round, if_neg hn0]
  dsimp only
  rw [max_floorLog2_of_units hn hm hn0 hlead hlt, hup, hdown, mul_two_pow_sub_of_units hn,
    roundDiv_mul_self m (Nat.mul_pos (Nat.two_pow_pos _) (Nat.two_pow_pos _)), sub_add_cancel, Int.toNat_natCast,
    min_eq_left hfinite]

end SideBySide

/-- A value that has a finite encoding is not rounded: `n / 2 ^ j` is `mantOf e f` units of `2 ^ (e - 1 - 149)`. -/
theorem f32Round_eq {e f n j : Nat} (he : e < 255) (hf : f < 2 ^ 23) (hm : mantOf e f ≠ 0)
    (hn : n * 2 ^ 149 = mantOf e f * 2 ^ (e - 1) * 2 ^ j) (sign : Bool) :
    f32Round sign n (2 ^ j) = f32Pack sign (e * 2 ^ 23 + f) := by
  have hcarry := mul_add_mantOf e f
  have hfinite : e * 2 ^ 23 + f ≤ 255 * 2 ^ 23 := by omega
  have hlead : e - 1 ≠ 0 → 23 ≤ (mantOf e f).log2 := fun hE =>
    (Nat.le_log2 hm).mpr (by rewrite [mantOf, if_neg (fun h0 => hE (by rw [h0]))]; exact Nat.le_add_right _ _)
  have hlt : (mantOf e f).log2 < 24 := (Nat.log2_lt hm).mpr (by unfold mantOf; split <;> omega)
  exact hcarry ▸ f32Round_of_units hn hm hlead hlt (hcarry.trans_le hfinite) sign

/-! ### The calibration formula -/

/-- The fraction of an integer of 16 bits. -/
def fracOf (n : Nat) : Nat := n * 2 ^ (23 - n.log2) - 2 ^ 23

/-- An integer of 16 bits has an encoding. -/
theorem mantOf_natAbs {n : Nat} (hn : n ≠ 0) (h : n < 2 ^ 16) :
    fracOf n < 2 ^ 23 ∧ mantOf (n.log2 + 127) (fracOf n) = n * 2 ^ (23 - n.log2) ∧
      n * 2 ^ (23 - n.log2) * 2 ^ (n.log2 + 126) = n * 2 ^ 149 := by
  have hle : n.log2 ≤ 23 := ((Nat.log2_lt hn).mpr h).le.trans (by decide)
  have hlo : 2 ^ 23 ≤ n * 2 ^ (23 - n.log2) := by
    calc 2 ^ 23 = 2 ^ n.log2 * 2 ^ (23 - n.log2) := by rw [← pow_add, Nat.add_sub_cancel' hle]
      _ ≤ n * 2 ^ (23 - n.log2) := Nat.mul_le_mul_right _ (Nat.log2_self_le hn)
  have hhi : n * 2 ^ (23 - n.log2) < 2 ^ 23 + 2 ^ 23 := by
    calc n * 2 ^ (23 - n.log2)
        < 2 ^ (n.log2 + 1) * 2 ^ (23 - n.log2) := Nat.mul_lt_mul_of_pos_right Nat.lt_log2_self (by positivity)
      _ = 2 ^ 23 + 2 ^ 23 := by rewrite [← pow_add, Nat.add_right_comm, Nat.add_sub_cancel' hle]; rfl
  have hmant : mantOf (n.log2 + 127) (fracOf n) = n * 2 ^ (23 - n.log2) :=
    (mantOf_succ _ _).trans (Nat.add_sub_of_le hlo)
  have hunits : n * 2 ^ (23 - n.log2) * 2 ^ (n.log2 + 126) = n * 2 ^ 149 := by
    rw [Nat.mul_assoc, ← pow_add, ← Nat.add_assoc, Nat.sub_add_cancel hle]
  exact ⟨Nat.sub_lt_left_of_lt_add hlo hhi, hmant, hunits⟩

/-- A finite encoding by its fields, in units of `2 ^ -149`. -/
theorem f32Pack_finite (sign : Bool) {e f : Nat} (he : e < 255) (hf : f < 2 ^ 23) :
    f32Finite (f32Pack sign (e * 2 ^ 23 + f)) = true ∧
      f32Int (f32Pack sign (e * 2 ^ 23 + f)) * 2 ^ (f32Pow (f32Pack sign (e * 2 ^ 23 + f)) + 149).toNat =
        if sign then -((mantOf e f * 2 ^ (e - 1) : Nat) : Int) else ((mantOf e f * 2 ^ (e - 1) : Nat) : Int) := by
  have he8 : e < 2 ^ 8 := he.trans (by decide)
  rewrite [f32Finite, f32Int, f32Pow_add, f32Mant_eq, f32Exp_pack sign he8 hf, f32Frac_pack sign he8 hf,
    f32Sign_pack sign he8 hf]
  refine ⟨decide_eq_true he.ne, ?_⟩
  push_cast
  split
  · rw [neg_mul]
  · rfl

/-- An integer of 16 bits is converted exactly (43 R226). -/
theorem f32OfInt_exact {d : Int} (h : d.natAbs < 2 ^ 16) : f32Finite (f32OfInt d) = true ∧
    f32Int (f32OfInt d) * 2 ^ (f32Pow (f32OfInt d) + 149).toNat = d * 2 ^ 149 := by
  obtain rfl | hd := eq_or_ne d 0
  · decide
  have hn : d.natAbs ≠ 0 := Int.natAbs_ne_zero.mpr hd
  have he : d.natAbs.log2 + 127 < 255 := Nat.add_lt_add_right (((Nat.log2_lt hn).mpr h).trans (by decide)) 127
  obtain ⟨hf, hmant, hunits⟩ := mantOf_natAbs hn h
  have hvalue : mantOf (d.natAbs.log2 + 127) (fracOf d.natAbs) * 2 ^ (d.natAbs.log2 + 127 - 1) = d.natAbs * 2 ^ 149 := by
    rewrite [hmant]
    exact hunits
  have hround : f32OfInt d = f32Pack (decide (d < 0)) ((d.natAbs.log2 + 127) * 2 ^ 23 + fracOf d.natAbs) :=
    f32Round_eq (j := 0) he hf (by rewrite [hmant]; positivity) (by rw [hvalue, pow_zero, Nat.mul_one]) _
  obtain ⟨hfinite, hint⟩ := f32Pack_finite (decide (d < 0)) he hf
  rewrite [hround, hint, hvalue]
  refine ⟨hfinite, ?_⟩
  push_cast
  obtain hneg | hpos := lt_or_ge d 0
  · rw [if_pos (decide_eq_true hneg), abs_of_neg hneg, neg_mul, neg_neg]
  · rw [decide_eq_false (not_lt.mpr hpos), if_neg Bool.false_ne_true, abs_of_nonneg hpos]

/-- Under every configuration and for every raw code the formula has a result, and it is a number (93 I21). -/
theorem convert_correct {c : Config} {mean : Nat} (hc : configOk c = true) (hmean : mean < 2 ^ c.adcW) :
    ((c.calCode : Int) - mean).natAbs < 2 ^ 16 ∧
    ∃ q t, f32Div (f32OfInt ((c.calCode : Int) - mean)) c.gradient = some q ∧ f32Sub c.calTemp q = some t ∧
      convert c mean = some t ∧ f32Number t := by
  obtain ⟨-, -, -, -, -, -, -, -, -, -, -, -, -, -, hw16, htemp, hcode, hgrad, hgrad0, -⟩ := (configOk_iff c).mp hc
  have hpow : 2 ^ c.adcW ≤ 2 ^ 16 := Nat.pow_le_pow_right two_pos hw16
  have hdiff : ((c.calCode : Int) - mean).natAbs < 2 ^ 16 := by omega
  obtain ⟨q, hdiv, hq⟩ := exists_f32Div (f32OfInt_exact hdiff).1 hgrad hgrad0
  obtain ⟨t, hsub, ht⟩ := exists_f32Sub htemp hq
  exact ⟨hdiff, q, t, hdiv, hsub, by rewrite [convert, hdiv]; exact hsub, ht⟩

/-- Settles O51: the formula, the exact conversion, and the vectors by evaluation. -/
theorem convertIsTheCalibrationFormula : Obligations.ConvertIsTheCalibrationFormula := by
  refine ⟨fun c mean hc hmean => ?_, fun d hd => f32OfInt_exact hd, by decide⟩
  obtain ⟨hdiff, q, t, hdiv, hsub, hconv, -⟩ := convert_correct hc hmean
  exact ⟨hdiff, q, t, hdiv, hsub, hconv⟩

/-! ### Subtracting a zero -/

/-- The two zeros. -/
theorem eq_zero_of_f32Zero {x : F32} (h : f32Zero x = true) : x = if f32Sign x then 0x80000000#32 else 0x00000000#32 := by
  obtain ⟨hexp, hfrac⟩ := of_decide_eq_true h
  have hfields := f32Pack_fields x
  rewrite [hexp, hfrac] at hfields
  rewrite [← hfields]
  cases f32Sign x <;> rfl

theorem f32Finite_of_zero {x : F32} (h : f32Zero x = true) : f32Finite x = true := by
  obtain ⟨hexp, -⟩ := of_decide_eq_true h
  rewrite [f32Finite, hexp]
  rfl

/-- A subtrahend that is zero leaves the value of the minuend, in the least unit. -/
theorem f32Diff_of_zero {a b : F32} (hb : f32Zero b = true) :
    f32DiffPow a b = -149 ∧ f32Diff a b = f32Int a * 2 ^ (f32Pow a + 149).toNat := by
  obtain ⟨hexp, hfrac⟩ := of_decide_eq_true hb
  have hmant : f32Mant b = 0 := by rw [f32Mant, if_pos hexp, hfrac]
  have hint : f32Int b = 0 := by simp [f32Int, hmant]
  have hpow : f32DiffPow a b = -149 := by
    rewrite [f32DiffPow, f32Pow, f32Pow, if_pos hexp]
    split <;> omega
  exact ⟨hpow, by rw [f32Diff, hpow, hint, zero_mul, sub_zero, sub_neg_eq_add]⟩

theorem f32Infinite_of_finite {x : F32} (h : f32Finite x = true) : f32Infinite x = false :=
  decide_eq_false fun hinf => of_decide_eq_true h hinf.1

theorem f32Mant_ne_zero {x : F32} (h : f32Zero x = false) : f32Mant x ≠ 0 := by
  have h0 := of_decide_eq_false h
  unfold f32Mant
  split <;> omega

/-- Subtracting a zero from a number that is not one answers that number: its value is not rounded. -/
theorem f32Sub_zero {a b : F32} (ha : f32Finite a = true) (h0 : f32Zero a = false) (hb : f32Zero b = true) :
    f32Sub a b = some a := by
  have hb' := f32Finite_of_zero hb
  obtain ⟨hpow, hdiff⟩ := f32Diff_of_zero (a := a) hb
  rewrite [f32Pow_add] at hdiff
  have hmant := f32Mant_ne_zero h0
  have he : f32Exp a < 255 := lt_of_le_of_ne (Nat.le_of_lt_succ (f32Exp_lt a)) (of_decide_eq_true ha)
  have hpos : (0 : Int) < f32Mant a * 2 ^ (f32Exp a - 1) :=
    mul_pos (by exact_mod_cast Nat.pos_of_ne_zero hmant) (by positivity)
  have habs : (f32Diff a b).natAbs = f32Mant a * 2 ^ (f32Exp a - 1) := by
    rewrite [hdiff, f32Int, Int.natAbs_mul, Int.natAbs_pow]
    split
    · rewrite [Int.natAbs_neg]; rfl
    · rfl
  have hsign : decide (f32Diff a b < 0) = f32Sign a := by
    rewrite [hdiff, f32Int]
    cases f32Sign a with
    | false => exact decide_eq_false (not_lt.mpr hpos.le)
    | true => exact decide_eq_true (by rewrite [if_pos rfl, neg_mul]; exact neg_neg_of_pos hpos)
  have hne : f32Diff a b ≠ 0 := by
    rewrite [← Int.natAbs_ne_zero, habs]
    positivity
  have hround : f32RoundScaled (f32Sign a) (f32Diff a b).natAbs (-149) = a := by
    refine Eq.trans ?_ (f32Pack_fields a)
    refine f32Round_eq (j := 149) he (f32Frac_lt a) hmant ?_ _
    rewrite [habs]
    exact congrArg (· * 2 ^ 149) (Nat.mul_one _)
  rewrite [f32Sub, if_neg (not_not.mpr ha), f32Infinite_of_finite hb', if_neg Bool.false_ne_true, if_neg (not_not.mpr hb')]
  dsimp only
  rw [if_neg hne, hpow, hsign, hround]

/-- Settles O52: a number that is not a zero is on the grid, and of the zeros there are two. -/
theorem subtractingZeroIsExact : Obligations.SubtractingZeroIsExact := by
  refine ⟨fun a b ha h0 hb => f32Sub_zero ha h0 hb, fun a b ha hb => ?_⟩
  rewrite [eq_zero_of_f32Zero ha, eq_zero_of_f32Zero hb]
  cases f32Sign a <;> cases f32Sign b <;> decide

end Sys2Proof.Machine

/-! `PERIOD` step 5, the hand-off to the transmitter (43_duty_cycle_sequencer R230 to R233). -/

namespace Sys2Proof.Machine

/-! ### The ring of a hand-off -/

theorem enqueueAll_of_enqueueBytes {bytes : List Byte} : ∀ {s t : State}, enqueueBytes bytes s = some t →
    enqueueAll bytes s = .stored t := by
  induction bytes with
  | nil => intro s t h; cases h; rfl
  | cons b rest ih =>
    intro s t h
    cases hb : rbEnqueue b s with
    | stored u =>
      rewrite [enqueueBytes, hb] at h
      rewrite [enqueueAll, hb]
      exact ih h
    | full u =>
      rewrite [enqueueBytes, hb] at h
      cases h
    | fault f =>
      rewrite [enqueueBytes, hb] at h
      cases h

theorem enqueueAll_append {front : List Byte} (rest : List Byte) : ∀ {s t : State}, enqueueAll front s = .stored t →
    enqueueAll (front ++ rest) s = enqueueAll rest t := by
  induction front with
  | nil => intro s t h; cases h; rfl
  | cons b front ih =>
    intro s t h
    rewrite [enqueueAll] at h
    cases hb : rbEnqueue b s with
    | stored u =>
      rewrite [hb] at h
      rewrite [List.cons_append, enqueueAll, hb]
      exact ih h
    | full | fault =>
      rewrite [hb] at h
      cases h

/-- Storing bytes moves the head, the count and the storage, and nothing else. -/
theorem enqueueAll_frame {bytes : List Byte} : ∀ {s t : State}, enqueueAll bytes s = .stored t →
    t = { s with rbHead := t.rbHead, rbCount := t.rbCount, rbMem := t.rbMem } := by
  induction bytes with
  | nil => intro s t h; cases h; rfl
  | cons b rest ih =>
    intro s t h
    rewrite [enqueueAll] at h
    obtain ⟨-, hfull⟩ | ⟨-, -, hfault⟩ | ⟨-, -, hstored⟩ := rbEnqueue_cases b s
    · rewrite [hfull] at h
      cases h
    · rewrite [hfault] at h
      cases h
    · rewrite [hstored] at h
      exact ih (s := s.enqueued b) h

/-- An allocated ring is empty and in order. -/
theorem ringOk_rbAllocate {s : State} {c : Byte} (h : c.toNat ≤ s.cfg.capMax) : RingOk (s.rbAllocate c) :=
  ⟨Nat.zero_le _, h, fun hpos => ⟨hpos, hpos, (Nat.zero_mod _).symm⟩, fun _ => ⟨rfl, rfl, rfl⟩, rfl, by simp⟩

/-- Where the head is, from the invariant. -/
theorem RingOk.rbHead_eq {s : State} (hr : RingOk s) :
    s.rbHead.toNat = (s.rbTail.toNat + s.rbCount.toNat) % s.rbCap.toNat := by
  obtain hzero | hpos := s.rbCap.toNat.eq_zero_or_pos
  · obtain ⟨hhead, htail, hcount⟩ := hr.noStorage hzero
    rw [hhead, htail, hcount, Nat.zero_mod]
  · obtain ⟨-, -, hhead⟩ := hr.cursors hpos
    exact hhead

/-- The ring allocated with capacity `cap` and then filled with `n` bytes; `mem` is the storage. -/
def State.ringFilled (s : State) (cap n : Nat) (mem : Memory) : State :=
  { s with
    rbCap := BitVec.ofNat 8 cap
    rbHead := BitVec.ofNat 8 (n % cap)
    rbTail := 0#8
    rbCount := BitVec.ofNat 8 n
    rbMem := mem }

/-- Bytes that fit a newly allocated ring are its content. -/
theorem enqueueAll_rbAllocate {s : State} {bytes : List Byte} {cap : Nat} (hfit : bytes.length ≤ cap)
    (hcap : cap ≤ s.cfg.capMax) (hbyte : cap < 2 ^ 8) :
    ∃ mem, enqueueAll bytes (s.rbAllocate (BitVec.ofNat 8 cap)) = .stored (s.ringFilled cap bytes.length mem) ∧
      RingOk (s.ringFilled cap bytes.length mem) ∧ (s.ringFilled cap bytes.length mem).queue = bytes.map some := by
  have hnat : (BitVec.ofNat 8 cap).toNat = cap := Nat.mod_eq_of_lt hbyte
  have hempty : RingOk (s.rbAllocate (BitVec.ofNat 8 cap)) := ringOk_rbAllocate (by rwa [hnat])
  obtain ⟨t, hbytes, hr, hqueue⟩ := hempty.enqueueBytes_fits bytes (by simpa [hnat] using hfit)
  have hstored := enqueueAll_of_enqueueBytes hbytes
  have hframe := enqueueAll_frame hstored
  have hcount : t.rbCount.toNat = bytes.length := by
    rewrite [← t.length_queue, hqueue, List.length_append, List.length_map, State.length_queue]
    exact Nat.zero_add _
  have hcapt : t.rbCap = BitVec.ofNat 8 cap := by rewrite [hframe]; rfl
  have htail : t.rbTail = 0#8 := by rewrite [hframe]; rfl
  have hhead : t.rbHead.toNat = bytes.length % cap := by
    rw [hr.rbHead_eq, hcapt, htail, hcount, hnat, BitVec.toNat_zero, Nat.zero_add]
  have ht : t = s.ringFilled cap bytes.length t.rbMem := by
    rewrite [State.ringFilled, ← hhead, ← hcount, BitVec.ofNat_toNat, BitVec.ofNat_toNat, BitVec.setWidth_eq,
      BitVec.setWidth_eq]
    exact hframe
  exact ⟨t.rbMem, ht ▸ hstored, ht ▸ hr, ht ▸ hqueue⟩

/-! ### The three ends of step 5 -/

/-- The hold table is no part of the ring. -/
theorem RingOk.setHold {s : State} (hr : RingOk s) (m v : Nat) : RingOk (s.setHold m v) :=
  ⟨hr.count, hr.cap, hr.cursors, hr.noStorage, hr.canonical, hr.content⟩

/-- A configuration's ring capacity is a byte. -/
theorem rbCap_le_of_configOk {c : Config} (hc : configOk c = true) : c.rbCap ≤ c.capMax ∧ c.rbCap < 2 ^ 8 := by
  obtain ⟨-, -, -, -, -, hmax, hcap, -⟩ := (configOk_iff c).mp hc
  exact ⟨hcap, by omega⟩

/-- The size a ring is allocated with fits the storage. -/
theorem ringSize_le_of_configOk {c : Config} (hc : configOk c = true) : (BitVec.ofNat 8 c.rbCap).toNat ≤ c.capMax := by
  rewrite [BitVec.toNat_ofNat]
  exact (Nat.mod_le _ _).trans (rbCap_le_of_configOk hc).1

section HandOff
variable {u : State}

/-- On a ring for a burst all five bytes are stored, and the transmitter hold is next (R231, R233). -/
theorem handOff_stores (hc : configOk u.cfg = true) (h5 : 5 ≤ u.cfg.rbCap) :
    ∃ mem, handOff u = afterHold sendNext (acquire u.cfg.mTx (u.ringFilled u.cfg.rbCap 5 mem)) ∧
      RingOk (u.ringFilled u.cfg.rbCap 5 mem) ∧
      (u.ringFilled u.cfg.rbCap 5 mem).queue = (fiveBytes u.temp u.led).map some := by
  obtain ⟨hcap, hbyte⟩ := rbCap_le_of_configOk hc
  obtain ⟨mem, hstored, hr, hqueue⟩ := enqueueAll_rbAllocate (s := u) (bytes := burst u) h5 hcap hbyte
  exact ⟨mem, by rewrite [handOff, hstored]; rfl, hr, hqueue⟩

/-- With room for the hold, it is taken and the first byte is sent (R233). -/
theorem handOff_sends (hc : configOk u.cfg = true) (h5 : 5 ≤ u.cfg.rbCap) (hroom : u.holdOf u.cfg.mTx ≠ holdTop u.cfg) :
    ∃ t, handOff u = .next t ∧
      t = { u with
        ctx := .main
        hold := u.hold.set u.cfg.mTx (u.holdOf u.cfg.mTx + 1)
        rbCap := BitVec.ofNat 8 u.cfg.rbCap
        rbHead := BitVec.ofNat 8 (5 % u.cfg.rbCap)
        rbTail := 1#8
        rbCount := 4#8
        rbMem := t.rbMem
        trace := u.trace ++ [.txSend (u.temp.extractLsb' 0 8)] } ∧
      t.queue = ((fiveBytes u.temp u.led).drop 1).map some := by
  obtain ⟨-, hbyte⟩ := rbCap_le_of_configOk hc
  obtain ⟨mem, hstores, hr, hqueue⟩ := handOff_stores hc h5
  have hheld := hr.setHold u.cfg.mTx (u.holdOf u.cfg.mTx + 1)
  have hpos : 0 < ((u.ringFilled u.cfg.rbCap 5 mem).setHold u.cfg.mTx (u.holdOf u.cfg.mTx + 1)).rbCount.toNat :=
    Nat.succ_pos 4
  obtain ⟨v, hv, hsent⟩ := hheld.sendNext_eq hpos
  obtain ⟨hfirst, hrest⟩ := List.cons.inj ((hheld.queue_eq_cons hpos hv).symm.trans hqueue)
  cases hfirst
  refine ⟨_, Eq.trans ?_ hsent, ?_, hrest⟩
  · rewrite [hstores, acquire_ok (s := u.ringFilled u.cfg.rbCap 5 mem) hroom]
    rfl
  · have htail : BitVec.ofNat 8 ((0 + 1) % (BitVec.ofNat 8 u.cfg.rbCap).toNat) = 1#8 := by
      rw [BitVec.toNat_ofNat, Nat.mod_eq_of_lt hbyte, Nat.mod_eq_of_lt (by omega)]
    rewrite [State.dequeued_eq hpos, ← htail]
    rfl

/-- With the counter at its top the hold is fatal; the burst stays in the ring (R210, R233). -/
theorem handOff_stops (hc : configOk u.cfg = true) (ht : u.task = none) (h5 : 5 ≤ u.cfg.rbCap)
    (htop : u.holdOf u.cfg.mTx = holdTop u.cfg) :
    ∃ t, handOff u = .next t ∧
      t = { u with
        ctx := .faulted
        fault := { u.fault with holdOverflow := true }
        rbCap := BitVec.ofNat 8 u.cfg.rbCap
        rbHead := BitVec.ofNat 8 (5 % u.cfg.rbCap)
        rbTail := 0#8
        rbCount := 5#8
        rbMem := t.rbMem } ∧
      t.queue = (fiveBytes u.temp u.led).map some := by
  obtain ⟨mem, hstores, -, hqueue⟩ := handOff_stores hc h5
  have hfatal : acquire u.cfg.mTx (u.ringFilled u.cfg.rbCap 5 mem) =
      .fatal ((u.ringFilled u.cfg.rbCap 5 mem).raiseFatal .holdOverflow) := if_pos htop
  refine ⟨(u.ringFilled u.cfg.rbCap 5 mem).raiseFatal .holdOverflow, by rewrite [hstores, hfatal]; rfl, ?_, hqueue⟩
  rewrite [State.raiseFatal_idle (s := u.ringFilled u.cfg.rbCap 5 mem) ht]
  rfl

/-- On a smaller ring the bytes that fit are stored, and the next one ends the hand-off (R232). -/
theorem handOff_skips (hsmall : u.cfg.rbCap < 5) (hcap : u.cfg.rbCap ≤ u.cfg.capMax) :
    ∃ t, handOff u = .next t ∧
      t = { u with
        ctx := .main
        err := { u.err with bufFull := true }
        rbCap := BitVec.ofNat 8 u.cfg.rbCap
        rbHead := 0#8
        rbTail := 0#8
        rbCount := BitVec.ofNat 8 u.cfg.rbCap
        rbMem := t.rbMem } ∧
      t.queue = ((fiveBytes u.temp u.led).take u.cfg.rbCap).map some := by
  have hfive : (burst u).length = 5 := rfl
  have hlen : ((burst u).take u.cfg.rbCap).length = u.cfg.rbCap := by rewrite [List.length_take, hfive]; omega
  obtain ⟨mem, hstored, -, hqueue⟩ := enqueueAll_rbAllocate (s := u) hlen.le hcap (by omega)
  rewrite [hlen] at hstored hqueue
  obtain ⟨b, rest, hrest⟩ : ∃ b rest, (burst u).drop u.cfg.rbCap = b :: rest :=
    List.exists_cons_of_length_pos (by rewrite [List.length_drop, hfive]; omega)
  have hall : enqueueAll (burst u) (u.rbAllocate (BitVec.ofNat 8 u.cfg.rbCap)) =
      .full ((u.ringFilled u.cfg.rbCap u.cfg.rbCap mem).raiseErr .bufFull) := by
    rw [← List.take_append_drop u.cfg.rbCap (burst u), enqueueAll_append _ hstored, hrest, enqueueAll,
      rbEnqueue_full b (s := u.ringFilled u.cfg.rbCap u.cfg.rbCap mem) rfl]
  refine ⟨((u.ringFilled u.cfg.rbCap u.cfg.rbCap mem).raiseErr .bufFull).handlerReturn, by rw [handOff, hall], ?_, hqueue⟩
  rewrite [State.ringFilled, Nat.mod_self]
  rfl

end HandOff

end Sys2Proof.Machine

/-! `PERIOD` steps 2 to 4, the temperature and the comparator (43_duty_cycle_sequencer R220 to R229), and what they and
step 5 make of the state that enters step 2. -/

namespace Sys2Proof.Machine

/-! ### Step 2 -/

/-- The state `p` at the end of step 2, the hold of step 2 released again (R220). -/
def State.measured (p : State) (waits codes : List Nat) (temp : F32) : State :=
  { p with
    temp := temp
    env := { p.env with
      adcDone := p.env.adcDone.drop (doneAnswers waits).length
      adcResult := p.env.adcResult.drop codes.length }
    trace := p.trace ++ List.replicate codes.length .adcStart }

/-- The state `p` with the hold of step 2 taken (R220 line 2). -/
def State.adcHeld (p : State) : State := p.setHold p.cfg.mAdc (p.holdOf p.cfg.mAdc + 1)

/-- With room for its hold, step 2 runs the conversion loop. -/
theorem sampleTemp_eq_adcEnd {p : State} (hroom : RoomForSampling p) :
    sampleTemp p = adcEnd (adcLoop p.cfg.adcSamples 0 p.adcHeld) := by
  obtain ⟨-, htop⟩ := hroom
  rewrite [sampleTemp, acquire_ok htop]
  rfl

/-- The end of step 2 releases the hold it took. -/
theorem storeTemp_releases {p : State} (hm : p.cfg.mAdc < p.hold.length) {total : Nat} {temp : F32}
    (hconv : convert p.cfg (total / p.cfg.adcSamples) = some temp) (n : Nat) (done : List Bool) (results : List Nat) :
    storeTemp total (p.adcHeld.converted n done results) =
      readComparator ((p.converted n done results).setTemp temp) := by
  have hcount : ((p.adcHeld.converted n done results).setTemp temp).holdOf p.cfg.mAdc = p.holdOf p.cfg.mAdc + 1 :=
    State.holdOf_setHold_same _ hm
  have hback : p.hold.set p.cfg.mAdc (p.holdOf p.cfg.mAdc) = p.hold := by simp [State.holdOf, hm]
  have hconv' : convert (p.adcHeld.converted n done results).cfg
      (total / (p.adcHeld.converted n done results).cfg.adcSamples) = some temp := hconv
  have hrelease : release p.cfg.mAdc ((p.adcHeld.converted n done results).setTemp temp) =
      .ok ((p.converted n done results).setTemp temp) := by
    rewrite [release_ok (by omega), hcount, Nat.add_sub_cancel]
    simp only [State.adcHeld, State.converted, State.setTemp, State.setHold, List.set_set, hback]
  rewrite [storeTemp, hconv']
  exact congrArg (afterHold readComparator) hrelease

/-- With its answers step 2 runs to its end (R220). -/
theorem sampleTemp_measures {p : State} {waits codes : List Nat} {c : Bool} {temp : F32} (hc : configOk p.cfg = true)
    (hroom : RoomForSampling p) (ha : SamplingAnswers p waits codes c)
    (hconv : convert p.cfg (codes.sum / p.cfg.adcSamples) = some temp) :
    sampleTemp p = readComparator (p.measured waits codes temp) := by
  obtain ⟨hwaits, hlen, hcodes, ⟨done, hdone⟩, ⟨results, hresults⟩, -⟩ := ha
  obtain ⟨-, -, -, -, -, -, -, -, -, hmode, -⟩ := (configOk_iff p.cfg).mp hc
  have hm : p.cfg.mAdc < p.hold.length := hroom.1 ▸ hmode
  have hloop := adcLoop_answered 0 done results codes waits 0 p.adcHeld (hwaits.trans hlen.symm) hcodes hdone hresults
  rewrite [Nat.add_zero, Nat.zero_add] at hloop
  rewrite [sampleTemp_eq_adcEnd hroom, ← hlen, hloop]
  refine (storeTemp_releases hm hconv _ _ _).trans (congrArg readComparator ?_)
  simp only [State.measured, State.converted, State.setTemp, hdone, hresults, List.drop_left]

/-- Step 2 stays at a conversion that is never done, with its hold taken (70 R325). -/
theorem sampleTemp_waits {p : State} {waits codes : List Nat} (hroom : RoomForSampling p)
    (hs : ConverterSilent p waits codes) : sampleTemp p = .next (atTheConverter p codes) := by
  obtain ⟨hwaits, hmore, hcodes, ⟨j, hdone⟩, ⟨results, hresults⟩⟩ := hs
  obtain ⟨n, hn⟩ : ∃ n, p.cfg.adcSamples = codes.length + (n + 1) :=
    ⟨p.cfg.adcSamples - 1 - codes.length, by omega⟩
  have hloop := adcLoop_answered (n + 1) _ results codes waits 0 p.adcHeld hwaits hcodes hdone hresults
  rewrite [adcLoop_silent (s := p.adcHeld.converted _ _ _) n _ rfl, Nat.zero_add] at hloop
  have hleft : p.cfg.adcSamples - 1 - codes.length = n := by omega
  rewrite [sampleTemp_eq_adcEnd hroom, hn, hloop]
  simp only [atTheConverter, hleft, hresults, List.drop_left, List.replicate_succ', adcEnd, suspend, State.setTask,
    State.setEnv, State.emit, State.converted, State.adcHeld, State.setHold, List.append_assoc]

/-! ### Steps 3 and 4 -/

/-- Step 3 cell by cell (R227). -/
theorem State.comparatorOff_eq (s : State) : s.comparatorOff =
    { s with
      out := { s.out with excite := false, acmpEn := false }
      trace := s.trace ++ [.acmpDis, .gpio .excite false] } := by
  simp [State.comparatorOff, State.drive, State.driveAcmp, State.emit, State.setOut]

/-- With the comparator's answer the handler goes on to step 5. -/
theorem readComparator_measured {p : State} {waits codes : List Nat} {c : Bool} {temp : F32}
    (ha : SamplingAnswers p waits codes c) :
    readComparator (p.measured waits codes temp) = handOff (beforeHandOff p waits codes c temp) := by
  obtain ⟨-, -, -, -, -, ⟨r, hanswer⟩⟩ := ha
  have hmeasured : (p.measured waits codes temp).env.acmpOut = c :: r := hanswer
  rewrite [readComparator, hmeasured]
  dsimp only
  rewrite [State.hysteresis_eq, State.comparatorOff_eq, beforeHandOff, hanswer]
  rfl

end Sys2Proof.Machine

/-! `PERIOD` step 1, the power schedule (43_duty_cycle_sequencer R213 to R217), and the whole handler, by phase. -/

namespace Sys2Proof.Machine

/-! ### The register writes -/

/-- A write whose three acknowledgments are there (42 R191). -/
theorem busRun_writeFrame_acked {u : State} {acks : List Bool} (a v : Byte)
    (h : u.env.busAck = List.replicate 3 true ++ acks) :
    busRun (writeFrame u.cfg a v) 0x00#8 u = .done 0x00#8 (u.onBus acks u.env.busRx (writeTrace u.cfg a v)) :=
  busRun_answered (pre := writeFrame u.cfg a v) (vals := []) _ ⟨h, rfl, rfl⟩

/-- A write that times out at its wait `k` (42 R175, R191). -/
theorem busRun_writeFrame_times_out {u : State} {acks : List Bool} (a v : Byte) {k : Nat} (hk : k < 3)
    (h : u.env.busAck = List.replicate k true ++ false :: acks) :
    busRun (writeFrame u.cfg a v) 0x00#8 u =
      .timeout (u.onBus acks u.env.busRx ((writeTrace u.cfg a v).take (k + 2))).abandon := by
  obtain ⟨pre, post, hframe, hcount, hrx, hsent⟩ := writeFrame_split_ack u.cfg a v hk
  have hpre : Answers u.env pre [] (false :: acks) u.env.busRx := ⟨by rw [hcount, h], rfl, hrx.symm⟩
  rw [hframe, busRun_noAck post _ hpre, hsent]

/-- Writes that are all acknowledged, and then the rest (R214). -/
theorem configWrites_acked (rest : List (Byte × Byte)) (acks : List Bool) (seq : List (Byte × Byte)) :
    ∀ u : State, u.env.busAck = List.replicate (3 * seq.length) true ++ acks →
      configWrites (seq ++ rest) u =
        configWrites rest (u.onBus acks u.env.busRx (seq.flatMap fun w => writeTrace u.cfg w.1 w.2)) := by
  induction seq with
  | nil =>
    intro u h
    obtain rfl : u.env.busAck = acks := h
    rw [List.nil_append, List.flatMap_nil, State.onBus_start]
  | cons w seq ih =>
    intro u h
    have hfirst : u.env.busAck = List.replicate 3 true ++ (List.replicate (3 * seq.length) true ++ acks) := by
      rw [h, List.length_cons, Nat.mul_succ, Nat.add_comm, List.replicate_add, List.append_assoc]
    rewrite [List.cons_append, configWrites, busRun_writeFrame_acked w.1 w.2 hfirst]
    refine (ih _ rfl).trans (congrArg (configWrites rest) ?_)
    simp [State.onBus]

/-- The state `u` after its writes: `sent` is on the bus, `acks` are left, `e` are the error flags. -/
def State.afterWrites (u : State) (sent : List Action) (acks : List Bool) (e : ErrFlags) : State :=
  { u with err := e, env := { u.env with busAck := acks }, trace := u.trace ++ sent }

/-- The writes look at no cell but the answers, the configuration and the error flags. -/
theorem WritesAnswered.congr {s u : State} {seq : List (Byte × Byte)} {sent : List Action} {acks : List Bool}
    {e : ErrFlags} (h : WritesAnswered s seq sent acks e) (henv : u.env = s.env) (hcfg : u.cfg = s.cfg)
    (herr : u.err = s.err) : WritesAnswered u seq sent acks e := by
  unfold WritesAnswered
  rewrite [henv, hcfg, herr]
  exact h

/-- However the device acknowledges, the writes end (R214, R217). -/
theorem configWrites_answered {u : State} {seq : List (Byte × Byte)} {sent : List Action} {acks : List Bool} {e : ErrFlags}
    (h : WritesAnswered u seq sent acks e) : configWrites seq u = .done (u.afterWrites sent acks e) := by
  obtain ⟨hacks, rfl, rfl⟩ | ⟨before, w, after, k, rfl, hk, hacks, rfl, rfl⟩ := h
  · have hall := configWrites_acked [] acks seq u hacks
    rewrite [List.append_nil] at hall
    exact hall
  · have hbefore : u.env.busAck =
        List.replicate (3 * before.length) true ++ (List.replicate k true ++ false :: acks) := by
      rw [hacks, List.replicate_add, List.append_assoc]
    rewrite [configWrites_acked (w :: after) _ before u hbefore, configWrites,
      busRun_writeFrame_times_out (u := u.onBus _ _ _) w.1 w.2 hk rfl]
    dsimp only
    rewrite [State.abandon_eq]
    simp [State.onBus, State.afterWrites]

/-- The power-off write goes as a sequence of one write does; how it went is not examined (R216, R217). -/
theorem tearDownEnd_of_configWrites {u t : State} {w : Byte × Byte} (h : configWrites [w] u = .done t) :
    tearDownEnd (busRun (writeFrame u.cfg w.1 w.2) 0x00#8 u) = powerOff t := by
  rewrite [configWrites] at h
  cases hrun : busRun (writeFrame u.cfg w.1 w.2) 0x00#8 u with
  | done v s =>
    rewrite [hrun] at h
    cases h
    rfl
  | timeout s =>
    rewrite [hrun] at h
    cases h
    rfl
  | waiting left s =>
    rewrite [hrun] at h
    cases h

/-! ### The three phases up to step 2 -/

theorem periodHandler_powerUp {s : State} (h : s.ctr = .tearDown) :
    periodHandler s = powerUpPhase (s.setCtr .powerUp) := by
  simp only [periodHandler, h, Phase.next]

theorem periodHandler_dwell {s : State} (h : s.ctr = .powerUp) : periodHandler s = sampleTemp (s.setCtr .dwell) := by
  simp only [periodHandler, h, Phase.next]

theorem periodHandler_tearDown {s : State} (h : s.ctr = .dwell) :
    periodHandler s = tearDownPhase (s.setCtr .tearDown) := by
  simp only [periodHandler, h, Phase.next]

/-- The state in which the writes of phase 0 begin (R214 lines 1 to 3). -/
def State.poweringUp (s : State) : State :=
  ((((s.takeEvent .period).setCtr .powerUp).setHold s.cfg.mBus (s.holdOf s.cfg.mBus + 1)).drive .pwrEn true).emit
    (.delay s.cfg.settle)

/-- The state in which the power-off write of phase 2 begins (R216 line 1). -/
def State.tearingDown (s : State) : State := ((s.takeEvent .period).setCtr .tearDown).driveEdgeIrq false

@[simp] theorem State.poweringUp_cfg (s : State) : s.poweringUp.cfg = s.cfg := by simp [State.poweringUp]
@[simp] theorem State.poweringUp_env (s : State) : s.poweringUp.env = s.env := by simp [State.poweringUp]
@[simp] theorem State.poweringUp_err (s : State) : s.poweringUp.err = s.err := by simp [State.poweringUp]
@[simp] theorem State.tearingDown_cfg (s : State) : s.tearingDown.cfg = s.cfg := by simp [State.tearingDown]
@[simp] theorem State.tearingDown_env (s : State) : s.tearingDown.env = s.env := by simp [State.tearingDown]
@[simp] theorem State.tearingDown_err (s : State) : s.tearingDown.err = s.err := by simp [State.tearingDown]

section Phases
variable {s : State} (hs : Ready s)
include hs

/-- Phase 1 enters step 2 at once (R215). -/
theorem exec_period_dwell (h : s.ctr = .powerUp) : exec .period s = sampleTemp (afterDwell s) := by
  rewrite [exec_period_ready hs, periodHandler_dwell (s := s.takeEvent .period) h]
  rfl

theorem exec_period_powerUp (h : s.ctr = .tearDown) :
    exec .period s = powerUpPhase ((s.takeEvent .period).setCtr .powerUp) := by
  rw [exec_period_ready hs, periodHandler_powerUp (s := s.takeEvent .period) h]

/-- Phase 0 takes the bus hold, and its writes begin (R214). -/
theorem exec_period_powerUp_held (h : s.ctr = .tearDown) (hroom : s.holdOf s.cfg.mBus ≠ holdTop s.cfg) :
    exec .period s = powerUpEnd (configWrites s.cfg.cfgSeq s.poweringUp) := by
  have hacquire : acquire s.cfg.mBus ((s.takeEvent .period).setCtr .powerUp) =
      .ok (((s.takeEvent .period).setCtr .powerUp).setHold s.cfg.mBus (s.holdOf s.cfg.mBus + 1)) := if_neg hroom
  rewrite [exec_period_powerUp hs h, powerUpPhase, State.setCtr_cfg, State.takeEvent_cfg, hacquire]
  rfl

/-- Phase 0 stops where the bus hold overflows (R210, R214). -/
theorem exec_period_powerUp_fatal (h : s.ctr = .tearDown) (htop : s.holdOf s.cfg.mBus = holdTop s.cfg) :
    exec .period s = .next (((s.takeEvent .period).setCtr .powerUp).raiseFatal .holdOverflow) := by
  have hacquire : acquire s.cfg.mBus ((s.takeEvent .period).setCtr .powerUp) =
      .fatal (((s.takeEvent .period).setCtr .powerUp).raiseFatal .holdOverflow) := if_pos htop
  rewrite [exec_period_powerUp hs h, powerUpPhase, State.setCtr_cfg, State.takeEvent_cfg, hacquire]
  rfl

/-- Phase 2 begins with its write (R216). -/
theorem exec_period_tearDown (h : s.ctr = .dwell) : exec .period s =
    tearDownEnd (busRun (writeFrame s.tearingDown.cfg s.cfg.offWrite.1 s.cfg.offWrite.2) 0x00#8 s.tearingDown) := by
  rewrite [exec_period_ready hs, periodHandler_tearDown (s := s.takeEvent .period) h]
  rfl

/-- Phase 0 enters step 2 after its writes, however they go (R214, R217). -/
theorem exec_period_powerUp_answered (h : s.ctr = .tearDown) (hroom : s.holdOf s.cfg.mBus ≠ holdTop s.cfg)
    {sent : List Action} {acks : List Bool} {e : ErrFlags} (hw : WritesAnswered s s.cfg.cfgSeq sent acks e) :
    exec .period s = sampleTemp (afterPowerUp s sent acks e) := by
  have hu : WritesAnswered s.poweringUp s.cfg.cfgSeq sent acks e := hw.congr (by simp) (by simp) (by simp)
  rewrite [exec_period_powerUp_held hs h hroom, configWrites_answered hu, powerUpEnd]
  congr 1
  simp [afterPowerUp, State.afterWrites, State.poweringUp, State.driveEdgeIrq, State.drive, State.emit, State.setOut,
    State.setPend, State.setCtr, State.takeEvent, State.setCtx, State.setHold, Pend.put]

/-- Phase 2 reaches line 3 after its write, however that goes (R216, R217). -/
theorem exec_period_tearDown_answered (h : s.ctr = .dwell) {sent : List Action} {acks : List Bool} {e : ErrFlags}
    (hw : WritesAnswered s [s.cfg.offWrite] sent acks e) :
    exec .period s = powerOff (s.tearingDown.afterWrites sent acks e) := by
  have hu : WritesAnswered s.tearingDown [s.cfg.offWrite] sent acks e := hw.congr (by simp) (by simp) (by simp)
  rw [exec_period_tearDown hs h, tearDownEnd_of_configWrites (configWrites_answered hu)]

end Phases

/-- The end of phase 2, cell by cell but for the hold (R216 line 3). -/
theorem tearingDown_afterWrites_off (s : State) (sent : List Action) (acks : List Bool) (e : ErrFlags) :
    (s.tearingDown.afterWrites sent acks e).drive .pwrEn false =
      { afterTearDown s sent acks e with hold := s.hold } := by
  simp [afterTearDown, State.afterWrites, State.tearingDown, State.driveEdgeIrq, State.drive, State.emit, State.setOut,
    State.setPend, State.setCtr, State.takeEvent, State.setCtx, Pend.put]

/-- With the bus hold there, it is released and step 2 follows (R216). -/
theorem powerOff_held {s : State} (hheld : s.holdOf s.cfg.mBus ≠ 0) (sent : List Action) (acks : List Bool)
    (e : ErrFlags) : powerOff (s.tearingDown.afterWrites sent acks e) = sampleTemp (afterTearDown s sent acks e) := by
  have hrelease : release s.cfg.mBus { afterTearDown s sent acks e with hold := s.hold } =
      .ok (afterTearDown s sent acks e) := if_neg hheld
  rewrite [powerOff, tearingDown_afterWrites_off]
  exact congrArg (afterHold sampleTemp) hrelease

/-- Without it the release is fatal (R210, R216). -/
theorem powerOff_fatal {s : State} (hzero : s.holdOf s.cfg.mBus = 0) (sent : List Action) (acks : List Bool)
    (e : ErrFlags) : powerOff (s.tearingDown.afterWrites sent acks e) =
      .next (State.raiseFatal { afterTearDown s sent acks e with hold := s.hold } .sleepHoldMismatch) := by
  have hrelease : release s.cfg.mBus { afterTearDown s sent acks e with hold := s.hold } =
      .fatal (State.raiseFatal { afterTearDown s sent acks e with hold := s.hold } .sleepHoldMismatch) := if_pos hzero
  rewrite [powerOff, tearingDown_afterWrites_off]
  exact congrArg (afterHold sampleTemp) hrelease

/-! ### Steps 2 to 5, after any phase -/

/-- The state `p` is inside a `PERIOD` handler, at the beginning of step 2. -/
structure AtStepTwo (p : State) : Prop where
  config : configOk p.cfg = true
  ctx : p.ctx = .handler
  task : p.task = none

theorem EntersStepTwo.atStepTwo {s p : State} (hs : Ready s) (h : EntersStepTwo s p) : AtStepTwo p := by
  obtain ⟨hc, -, ht⟩ := hs
  unfold EntersStepTwo at h
  split at h
  · subst h
    exact ⟨hc, rfl, ht⟩
  · obtain ⟨-, sent, acks, e, -, rfl⟩ := h
    exact ⟨hc, rfl, ht⟩
  · obtain ⟨-, sent, acks, e, -, rfl⟩ := h
    exact ⟨hc, rfl, ht⟩

/-- Whatever the phase, the handler is what step 2 makes of the state that enters it. -/
theorem EntersStepTwo.exec_period {s p : State} (hs : Ready s) (h : EntersStepTwo s p) :
    exec .period s = sampleTemp p := by
  unfold EntersStepTwo at h
  split at h
  case h_1 hphase =>
    subst h
    exact exec_period_dwell hs hphase
  case h_2 hphase =>
    obtain ⟨hroom, sent, acks, e, hw, rfl⟩ := h
    exact exec_period_powerUp_answered hs hphase hroom hw
  case h_3 hphase =>
    obtain ⟨hheld, sent, acks, e, hw, rfl⟩ := h
    rw [exec_period_tearDown_answered hs hphase hw, powerOff_held hheld]

section StepTwo
variable {p : State} (hp : AtStepTwo p) {waits codes : List Nat} {c : Bool} (hroom : RoomForSampling p)
  (ha : SamplingAnswers p waits codes c)
include hp hroom ha

/-- Steps 2 to 4 store the temperature of the mean, and step 5 follows. -/
theorem AtStepTwo.sampleTemp_eq : ∃ temp, convert p.cfg (codes.sum / p.cfg.adcSamples) = some temp ∧
    sampleTemp p = handOff (beforeHandOff p waits codes c temp) := by
  have ⟨hc, _, _⟩ := hp
  have ⟨_, hlen, hcodes, _⟩ := ha
  obtain ⟨-, hmean⟩ := sum_and_mean_in_range hc hlen hcodes
  obtain ⟨-, _, temp, -, -, hconv, -⟩ := convert_correct hc hmean
  exact ⟨temp, hconv, (sampleTemp_measures hc hroom ha hconv).trans (readComparator_measured ha)⟩

theorem AtStepTwo.completes (htx : p.holdOf p.cfg.mTx ≠ holdTop p.cfg) (h5 : 5 ≤ p.cfg.rbCap) :
    ∃ t, sampleTemp p = .next t ∧ StepsTwoToFive p t waits codes c := by
  obtain ⟨temp, hconv, hsample⟩ := hp.sampleTemp_eq hroom ha
  obtain ⟨t, hsend, ht, hqueue⟩ := handOff_sends (u := beforeHandOff p waits codes c temp) hp.config h5 htx
  exact ⟨t, hsample.trans hsend, temp, hconv, ht, hqueue⟩

theorem AtStepTwo.stopsAtTheTransmitter (htx : p.holdOf p.cfg.mTx = holdTop p.cfg) (h5 : 5 ≤ p.cfg.rbCap) :
    ∃ t, sampleTemp p = .next t ∧ StopsAtTheTransmitter p t waits codes c := by
  obtain ⟨temp, hconv, hsample⟩ := hp.sampleTemp_eq hroom ha
  obtain ⟨t, hstop, ht, hqueue⟩ := handOff_stops (u := beforeHandOff p waits codes c temp) hp.config hp.task h5 htx
  exact ⟨t, hsample.trans hstop, temp, hconv, ht, hqueue⟩

theorem AtStepTwo.skipsTheBurst (hsmall : p.cfg.rbCap < 5) :
    ∃ t, sampleTemp p = .next t ∧ SkipsTheBurst p t waits codes c := by
  obtain ⟨temp, hconv, hsample⟩ := hp.sampleTemp_eq hroom ha
  obtain ⟨t, hskip, ht, hqueue⟩ := handOff_skips (u := beforeHandOff p waits codes c temp) hsmall
    (rbCap_le_of_configOk hp.config).1
  exact ⟨t, hsample.trans hskip, temp, hconv, ht, hqueue⟩

end StepTwo

/-- Step 2 stops where its hold overflows (R210, R220). -/
theorem sampleTemp_fatal {p : State} (ht : p.task = none) (htop : p.holdOf p.cfg.mAdc = holdTop p.cfg) :
    sampleTemp p = .next { p with ctx := .faulted, fault := { p.fault with holdOverflow := true } } := by
  have hfatal : acquire p.cfg.mAdc p = .fatal (p.raiseFatal .holdOverflow) := if_pos htop
  rewrite [sampleTemp, hfatal, State.raiseFatal_idle ht]
  rfl

/-- Entered in any state, steps 2 to 5 run to the end or wait at the converter. -/
theorem EntersStepTwo.finishesOrWaits {s p : State} (hs : Ready s) (h : EntersStepTwo s p) : FinishesOrWaits s p := by
  have hp := h.atStepTwo hs
  rewrite [FinishesOrWaits, h.exec_period hs]
  refine ⟨fun waits codes c ⟨hroom, htx, h5⟩ ha => hp.completes hroom ha htx h5, fun waits codes hroom hsilent => ?_⟩
  exact ⟨sampleTemp_waits hroom hsilent, hp.ctx⟩

/-! ### The phases, one by one -/

theorem entersStepTwo_dwell {s : State} (h : s.ctr = .powerUp) : EntersStepTwo s (afterDwell s) := by
  rw [EntersStepTwo, h]

theorem entersStepTwo_powerUp {s : State} (h : s.ctr = .tearDown) (hroom : s.holdOf s.cfg.mBus ≠ 2 ^ s.cfg.holdW - 1)
    {sent : List Action} {acks : List Bool} {e : ErrFlags} (hw : WritesAnswered s s.cfg.cfgSeq sent acks e) :
    EntersStepTwo s (afterPowerUp s sent acks e) := by
  rewrite [EntersStepTwo, h]
  exact ⟨hroom, sent, acks, e, hw, rfl⟩

theorem entersStepTwo_tearDown {s : State} (h : s.ctr = .dwell) (hheld : s.holdOf s.cfg.mBus ≠ 0) {sent : List Action}
    {acks : List Bool} {e : ErrFlags} (hw : WritesAnswered s [s.cfg.offWrite] sent acks e) :
    EntersStepTwo s (afterTearDown s sent acks e) := by
  rewrite [EntersStepTwo, h]
  exact ⟨hheld, sent, acks, e, hw, rfl⟩

/-- Settles O37: phase 1 enters step 2 at once. -/
theorem periodDwellCompletes : Obligations.PeriodDwellCompletes :=
  fun _ hs h => (entersStepTwo_dwell h).finishesOrWaits hs

/-- Settles O38: phase 0 enters step 2 after writes that are all acknowledged. -/
theorem periodPowerUpCompletes : Obligations.PeriodPowerUpCompletes :=
  fun _ _ hs h hroom hacks => (entersStepTwo_powerUp h hroom (.inl ⟨hacks, rfl, rfl⟩)).finishesOrWaits hs

/-- Settles O39: phase 2 enters step 2 after a write that is acknowledged. -/
theorem periodTearDownCompletes : Obligations.PeriodTearDownCompletes := by
  intro s acks hs h hheld hacks
  have hsent : writeTrace s.cfg s.cfg.offWrite.1 s.cfg.offWrite.2 =
      [s.cfg.offWrite].flatMap fun w => writeTrace s.cfg w.1 w.2 := by simp
  exact (entersStepTwo_tearDown h hheld (.inl ⟨hacks, hsent, rfl⟩)).finishesOrWaits hs

/-- Settles O40: a write that times out ends the writes, and step 2 is entered all the same. -/
theorem periodSurvivesADeadDevice : Obligations.PeriodSurvivesADeadDevice := by
  refine fun s acks k hs hk => ⟨fun before w after h hroom hseq hacks => ?_, fun h hheld hacks => ?_⟩
  · exact (entersStepTwo_powerUp h hroom (.inr ⟨before, w, after, k, hseq, hk, hacks, rfl, rfl⟩)).finishesOrWaits hs
  · refine (entersStepTwo_tearDown h hheld (.inr ⟨[], _, [], k, rfl, hk, ?_, rfl, rfl⟩)).finishesOrWaits hs
    rw [hacks, List.length_nil, Nat.mul_zero, Nat.zero_add]

/-- Settles O41: the two holds of step 1, the hold of step 2 and the hold of step 5. -/
theorem periodStopsAtAFatalHold : Obligations.PeriodStopsAtAFatalHold := by
  intro s hs
  have ⟨_, _, ht⟩ := hs
  refine ⟨fun h htop => ?_, fun sent acks e h hzero hw => ?_, fun p hp htop => ?_,
    fun p waits codes c hp hroom htx h5 ha => ?_⟩
  · rewrite [exec_period_powerUp_fatal hs h htop, State.raiseFatal_idle (s := (s.takeEvent .period).setCtr .powerUp) ht]
    rfl
  · rewrite [exec_period_tearDown_answered hs h hw, powerOff_fatal hzero,
      State.raiseFatal_idle (s := { afterTearDown s sent acks e with hold := s.hold }) ht]
    rfl
  · rw [hp.exec_period hs, sampleTemp_fatal (hp.atStepTwo hs).task htop]
  · rewrite [hp.exec_period hs]
    exact (hp.atStepTwo hs).stopsAtTheTransmitter hroom ha htx h5

/-- Settles O42: step 5 alone, and after any phase. -/
theorem smallRingSkipsTheBurst : Obligations.SmallRingSkipsTheBurst := by
  refine ⟨fun s hsmall hcap => ?_, fun s p waits codes c hs hp hroom hsmall ha => ?_⟩
  · obtain ⟨t, hskip, ht, hqueue⟩ := handOff_skips hsmall hcap
    refine ⟨t, hskip, ?_, ?_, ?_, ?_, ?_, hqueue⟩ <;> rw [ht]
  · rewrite [hp.exec_period hs]
    exact (hp.atStepTwo hs).skipsTheBurst hroom ha hsmall

end Sys2Proof.Machine

/-! The power schedule over a run (43_duty_cycle_sequencer R218): what keeps the power-enable output as it is, what a
period boundary makes of it, and by induction what a run of operations makes of it. -/

namespace Sys2Proof.Machine

/-! ### What leaves the power output alone -/

/-- From `s` to `t` the power-enable output has not been driven, and the phase is the same. -/
structure SamePower (s t : State) : Prop where
  trace : t.trace.filter Action.isPower = s.trace.filter Action.isPower
  pwrEn : t.out.pwrEn = s.out.pwrEn
  ctr : t.ctr = s.ctr

theorem SamePower.refl (s : State) : SamePower s s := ⟨rfl, rfl, rfl⟩

theorem SamePower.trans {s t u : State} (h : SamePower s t) (h' : SamePower t u) : SamePower s u :=
  ⟨h'.trace.trans h.trace, h'.pwrEn.trans h.pwrEn, h'.ctr.trans h.ctr⟩

/-- Actions on other outputs. -/
theorem SamePower.of_emitted {s t : State} {l : List Action} (htrace : t.trace = s.trace ++ l)
    (hl : l.filter Action.isPower = []) (hout : t.out.pwrEn = s.out.pwrEn) (hctr : t.ctr = s.ctr) : SamePower s t :=
  ⟨by rw [htrace, List.filter_append, hl, List.append_nil], hout, hctr⟩

/-- The transitions after `s` that change neither the trace, the outputs nor the phase. -/
theorem SamePower.silent {s u t : State} (h : SamePower s u) (htrace : t.trace = u.trace) (hout : t.out = u.out)
    (hctr : t.ctr = u.ctr) : SamePower s t :=
  h.trans ⟨by rw [htrace], by rw [hout], hctr⟩

theorem keeps_fault (P : State → Prop) (f : Fault) : Keeps P (.fault f) := fun _ h => by cases h

theorem keeps_refused (P : State → Prop) (r : Refusal) : Keeps P (.refused r) := fun _ h => by cases h

section Quiet
variable {s u : State} (h : SamePower s u)
include h

theorem setEnv_quiet (e : Env) : SamePower s (u.setEnv e) := h.silent rfl rfl rfl

theorem setTemp_quiet (temp : F32) : SamePower s (u.setTemp temp) := h.silent rfl rfl rfl

theorem acquire_quiet {k : State → Out} (hk : ∀ v, SamePower s v → Keeps (SamePower s) (k v)) (m : Nat) :
    Keeps (SamePower s) (afterHold k (acquire m u)) := by
  obtain ⟨-, hend⟩ | ⟨-, hend⟩ := acquire_cases m u <;> rewrite [hend]
  · exact keeps_next (h.silent rfl rfl rfl)
  · exact hk _ (h.silent rfl rfl rfl)

theorem release_quiet {k : State → Out} (hk : ∀ v, SamePower s v → Keeps (SamePower s) (k v)) (m : Nat) :
    Keeps (SamePower s) (afterHold k (release m u)) := by
  obtain ⟨-, hend⟩ | ⟨-, hend⟩ := release_cases m u <;> rewrite [hend]
  · exact keeps_next (h.silent rfl rfl rfl)
  · exact hk _ (h.silent rfl rfl rfl)

/-! ### Step 5 -/

theorem rbEnqueue_quiet (b : Byte) : EnqKeeps (SamePower s) (rbEnqueue b u) := by
  obtain ⟨-, hend⟩ | ⟨-, -, hend⟩ | ⟨-, -, hend⟩ := rbEnqueue_cases b u <;> rewrite [hend]
  · exact h.silent rfl rfl rfl
  · trivial
  · exact h.silent rfl rfl rfl

omit h in
theorem enqueueAll_quiet (bytes : List Byte) : ∀ {u : State}, SamePower s u →
    EnqKeeps (SamePower s) (enqueueAll bytes u) := by
  induction bytes with
  | nil => exact fun h => h
  | cons b rest ih =>
    intro u h
    have hone := rbEnqueue_quiet h b
    rewrite [enqueueAll]
    cases hb : rbEnqueue b u with
    | stored v => rewrite [hb] at hone; exact ih hone
    | full v => rewrite [hb] at hone; exact hone
    | fault f => trivial

theorem sendNext_quiet : Keeps (SamePower s) (sendNext u) := by
  unfold sendNext
  obtain ⟨-, hend⟩ | ⟨-, -, hend⟩ | ⟨-, -, -, hend⟩ | ⟨-, -, v, -, hend⟩ := rbDequeue_cases u <;> rewrite [hend]
  · exact keeps_next (h.silent rfl rfl rfl)
  · exact keeps_fault _ _
  · exact keeps_fault _ _
  · exact keeps_next (h.trans (.of_emitted (l := [.txSend v]) rfl rfl rfl rfl))

theorem handOff_quiet : Keeps (SamePower s) (handOff u) := by
  have hburst := enqueueAll_quiet (burst u)
    (h.silent (t := u.rbAllocate (BitVec.ofNat 8 u.cfg.rbCap)) rfl rfl rfl)
  rewrite [handOff]
  cases hb : enqueueAll (burst u) (u.rbAllocate (BitVec.ofNat 8 u.cfg.rbCap)) with
  | stored v => rewrite [hb] at hburst; exact acquire_quiet hburst (fun _ hv => sendNext_quiet hv) _
  | full v => rewrite [hb] at hburst; exact keeps_next (hburst.silent rfl rfl rfl)
  | fault f => exact keeps_fault _ f

/-! ### Steps 2 to 4 -/

theorem comparatorOff_quiet : SamePower s u.comparatorOff :=
  h.trans (.of_emitted (u.comparatorOff_trace.trans (List.append_assoc ..)) rfl rfl rfl)

theorem hysteresis_quiet (c : Bool) : SamePower s (u.hysteresis c) := by
  rewrite [State.hysteresis_eq]
  refine h.trans (.of_emitted rfl ?_ rfl rfl)
  split <;> rfl

theorem readComparator_quiet : Keeps (SamePower s) (readComparator u) := by
  unfold readComparator
  split
  · exact keeps_next (h.silent rfl rfl rfl)
  · exact handOff_quiet (hysteresis_quiet (comparatorOff_quiet (setEnv_quiet h _)) _)

theorem adcRead_quiet : SampleKeeps (SamePower s) (adcRead u) := by
  unfold adcRead
  split
  · exact h
  · split
    · exact h.silent rfl rfl rfl
    · trivial

theorem adcWait_quiet : SampleKeeps (SamePower s) (adcWait u) := by
  unfold adcWait
  split
  · exact h.silent rfl rfl rfl
  · exact adcRead_quiet (h.silent rfl rfl rfl)

omit h in
theorem adcLoop_quiet (n : Nat) : ∀ (total : Nat) {u : State}, SamePower s u →
    AdcKeeps (SamePower s) (adcLoop n total u) := by
  induction n with
  | zero => exact fun _ _ h => h
  | succ n ih =>
    intro total u h
    have hone := adcWait_quiet (h.trans (.of_emitted (t := u.emit .adcStart) (l := [.adcStart]) rfl rfl rfl rfl))
    rewrite [adcLoop]
    cases hw : adcWait (u.emit .adcStart) with
    | code c v => rewrite [hw] at hone; exact ih _ hone
    | notDone v => rewrite [hw] at hone; exact hone
    | noResult v => rewrite [hw] at hone; exact hone
    | tooWide => trivial

theorem storeTemp_quiet (total : Nat) : Keeps (SamePower s) (storeTemp total u) := by
  unfold storeTemp
  split
  · exact keeps_refused _ _
  · exact release_quiet (setTemp_quiet h _) (fun _ hv => readComparator_quiet hv) _

theorem sampleTemp_quiet : Keeps (SamePower s) (sampleTemp u) := by
  refine acquire_quiet h (fun v hv => ?_) _
  have hloop := adcLoop_quiet v.cfg.adcSamples 0 hv
  cases hl : adcLoop v.cfg.adcSamples 0 v with
  | sum total w => rewrite [hl] at hloop; exact storeTemp_quiet hloop total
  | waiting t w => rewrite [hl] at hloop; exact keeps_next (hloop.silent rfl rfl rfl)
  | tooWide => exact keeps_refused _ _

/-! ### Exchanges -/

omit h in
theorem symbolsOf_quiet (f : List BusStep) : (symbolsOf f).filter Action.isPower = [] := by
  induction f with
  | nil => rfl
  | cons x f ih => cases x <;> simpa [symbolsOf, Action.isPower] using ih

theorem onBus_quiet (acks : List Bool) (bytes : List (Option Byte)) (f : List BusStep) :
    SamePower s (u.onBus acks bytes (symbolsOf f)) :=
  h.trans (.of_emitted rfl (symbolsOf_quiet f) rfl rfl)

theorem abandon_quiet : SamePower s u.abandon := by
  rewrite [State.abandon_eq]
  refine h.trans (.of_emitted rfl ?_ rfl rfl)
  rewrite [abandonTrace]
  split <;> rfl

theorem busRun_quiet (f : List BusStep) (v : Byte) : SamePower s (busRun f v u).state := by
  have hends := busRun_ends (f := f) (v := v) (s := u) rfl
  generalize busRun f v u = e at hends
  cases hends with
  | done => exact onBus_quiet h _ _ _
  | noAck => exact abandon_quiet (onBus_quiet h _ _ _)
  | noByte => exact abandon_quiet (onBus_quiet h _ _ _)
  | ackOpen => exact onBus_quiet h _ _ _
  | byteOpen => exact onBus_quiet h _ _ _

omit h in
theorem configWrites_quiet (seq : List (Byte × Byte)) : ∀ {u : State}, SamePower s u →
    WritesKeep (SamePower s) (configWrites seq u) := by
  induction seq with
  | nil => exact fun h => h
  | cons w seq ih =>
    intro u h
    have hone := busRun_quiet h (writeFrame u.cfg w.1 w.2) 0x00#8
    rewrite [configWrites]
    cases hb : busRun (writeFrame u.cfg w.1 w.2) 0x00#8 u with
    | done v t => rewrite [hb] at hone; exact ih hone
    | timeout t => rewrite [hb] at hone; exact hone
    | waiting left t => rewrite [hb] at hone; exact hone

/-- Phase 0 after the output is driven: whether its writes end or wait (R214). -/
theorem powerUpEnd_quiet (seq : List (Byte × Byte)) : Keeps (SamePower s) (powerUpEnd (configWrites seq u)) := by
  have hwrites := configWrites_quiet seq h
  cases hw : configWrites seq u with
  | done t =>
    rewrite [hw] at hwrites
    exact sampleTemp_quiet (hwrites.trans (.of_emitted (t := t.driveEdgeIrq true) (l := [.edgeIrq true]) rfl rfl rfl rfl))
  | waiting task t =>
    rewrite [hw] at hwrites
    exact keeps_next (hwrites.silent rfl rfl rfl)

end Quiet

/-! ### The other operations -/

/-- Parking, or not, is no action on the output. -/
theorem enter_quiet {s : State} (hs : Ready s) : Keeps (SamePower s) (exec .enter s) := by
  rewrite [exec_enter_ready hs]
  cases hsel : s.selected with
  | none =>
    rewrite [enterRun_none hsel]
    exact keeps_next (.of_emitted (l := [.parkNone]) rfl rfl rfl rfl)
  | some r =>
    cases hp : s.pend.any with
    | true =>
      rewrite [enterRun_wakes hsel hp, State.wakeFrom_eq]
      exact keeps_next (.of_emitted (l := [.park r, .wake]) (List.append_assoc ..) rfl rfl rfl)
    | false =>
      rewrite [enterRun_parks hsel hp]
      exact keeps_next (.of_emitted (l := [.park r]) rfl rfl rfl rfl)

/-- The excitation is another output. -/
theorem subint_quiet {s : State} (hs : Ready s) : Keeps (SamePower s) (exec .subint s) := by
  rewrite [exec_subint_ready hs, subintHandler, warmWait]
  have harmed : SamePower s (((s.takeEvent .subint).driveAcmp true).drive .excite true) := by
    rewrite [takeEvent_subint_armed]
    exact .of_emitted (l := [.acmpEn, .gpio .excite true]) rfl rfl rfl rfl
  split <;> exact keeps_next (harmed.silent rfl rfl rfl)

/-- A command or an event but `PERIOD`, served in a ready state (R218). -/
theorem exec_quiet {i : Instr} (hi : i ≠ .period) {s : State} (hs : Ready s) : Keeps (SamePower s) (exec i s) := by
  have h := SamePower.refl s
  cases i with
  | acq m =>
    rewrite [exec_acq_ready hs, acqRun]
    split
    · exact keeps_next (h.silent rfl rfl rfl)
    · obtain ⟨-, hend⟩ | ⟨-, hend⟩ := acquire_cases m.toNat s <;> rewrite [hend] <;> exact keeps_next (h.silent rfl rfl rfl)
  | rel m =>
    rewrite [exec_rel_ready hs, relRun]
    split
    · exact keeps_next (h.silent rfl rfl rfl)
    · obtain ⟨-, hend⟩ | ⟨-, hend⟩ := release_cases m.toNat s <;> rewrite [hend] <;> exact keeps_next (h.silent rfl rfl rfl)
  | sel =>
    rewrite [exec_sel_ready hs]
    exact keeps_next (h.silent rfl rfl rfl)
  | enter => exact enter_quiet hs
  | alloc b =>
    rewrite [exec_alloc_ready hs, allocRun]
    split <;> exact keeps_next (h.silent rfl rfl rfl)
  | enq b =>
    have hone := rbEnqueue_quiet h b
    rewrite [exec_enq_ready hs, enqRun]
    cases hb : rbEnqueue b s with
    | stored t => rewrite [hb] at hone; exact keeps_next (hone.silent rfl rfl rfl)
    | full t => rewrite [hb] at hone; exact keeps_next (hone.silent rfl rfl rfl)
    | fault f => exact keeps_fault _ f
  | deq =>
    rewrite [exec_deq_ready hs, deqRun]
    obtain ⟨-, hend⟩ | ⟨-, -, hend⟩ | ⟨-, -, -, hend⟩ | ⟨-, -, v, -, hend⟩ := rbDequeue_cases s <;> rewrite [hend]
    · exact keeps_next (h.silent rfl rfl rfl)
    · exact keeps_fault _ _
    · exact keeps_fault _ _
    · exact keeps_next (h.silent rfl rfl rfl)
  | rdreg a =>
    have hrun := busRun_quiet h (readFrame s.cfg a) 0x00#8
    rewrite [exec_rdreg_ready hs, rdregRun]
    cases hb : busRun (readFrame s.cfg a) 0x00#8 s <;> rewrite [hb] at hrun <;>
      exact keeps_next (hrun.silent rfl rfl rfl)
  | wrreg a v =>
    have hrun := busRun_quiet h (writeFrame s.cfg a v) 0x00#8
    rewrite [exec_wrreg_ready hs, wrregRun]
    cases hb : busRun (writeFrame s.cfg a v) 0x00#8 s <;> rewrite [hb] at hrun <;>
      exact keeps_next (hrun.silent rfl rfl rfl)
  | rdsr n =>
    rewrite [exec_rdsr_ready hs, rdsrRun]
    split <;> exact keeps_next (h.silent rfl rfl rfl)
  | subint => exact subint_quiet hs
  | period => exact absurd rfl hi
  | txrdy =>
    have htaken : SamePower s (s.takeEvent .txrdy) := h.silent rfl rfl rfl
    rewrite [exec_txrdy_ready hs, txrdyHandler]
    split
    · exact release_quiet htaken (k := fun v => .next v.handlerReturn)
        (fun v hv => keeps_next (hv.silent rfl rfl rfl)) _
    · exact sendNext_quiet htaken
  | edge =>
    rewrite [edgeIsForwarded s hs]
    exact keeps_next (.of_emitted (l := [.edgeFwd]) rfl rfl rfl rfl)

/-! ### A period boundary -/

/-- The whole period boundaries behind a state whose phase is `p`, `n` whole cycles being complete (R213). -/
def boundaries (n : Nat) : Phase → Nat
  | .tearDown => 3 * n
  | .powerUp => 3 * n + 1
  | .dwell => 3 * n + 2

/-- After `k` period boundaries the output has gone high and low once per whole cycle, and is high inside a cycle (R218). -/
def PowerHistory (k : Nat) (s : State) : Prop :=
  ∃ n, k = boundaries n s.ctr ∧
    s.trace.filter Action.isPower = (List.replicate n [.gpio .pwrEn true, .gpio .pwrEn false]).flatten ++
      (if s.ctr = .tearDown then [] else [.gpio .pwrEn true]) ∧
    s.out.pwrEn = decide (s.ctr ≠ .tearDown)

theorem powerHistory_reset (c : Config) : PowerHistory 0 (State.resetOf c) := ⟨0, rfl, rfl, rfl⟩

theorem PowerHistory.of_samePower {k : Nat} {s t : State} (h : PowerHistory k s) (hst : SamePower s t) :
    PowerHistory k t := by
  obtain ⟨htrace, hout, hctr⟩ := hst
  rewrite [PowerHistory, htrace, hout, hctr]
  exact h

section Phases
variable {k : Nat} {s : State} (h : PowerHistory k s)
include h

/-- Phase 0 drives the output high before its first wait (R214 line 2). -/
theorem PowerHistory.poweringUp (hphase : s.ctr = .tearDown) : PowerHistory (k + 1) s.poweringUp := by
  obtain ⟨n, rfl, htrace, -⟩ := h
  rewrite [hphase, if_pos rfl, List.append_nil] at htrace
  have hctr : s.poweringUp.ctr = .powerUp := by simp [State.poweringUp]
  have hemitted : s.poweringUp.trace.filter Action.isPower = s.trace.filter Action.isPower ++ [.gpio .pwrEn true] := by
    simp [State.poweringUp]
    rfl
  refine ⟨n, by rewrite [hphase, hctr]; rfl, ?_, by simp [State.poweringUp]⟩
  rw [hemitted, htrace, hctr, if_neg (by decide)]

/-- Phase 1 leaves the output as it is (R215). -/
theorem PowerHistory.afterDwell (hphase : s.ctr = .powerUp) : PowerHistory (k + 1) (afterDwell s) := by
  obtain ⟨n, rfl, htrace, hout⟩ := h
  rewrite [hphase] at htrace hout
  exact ⟨n, by rewrite [hphase]; rfl, htrace, hout⟩

/-- Phase 2 drives the output low after its write, and a cycle is complete (R216 line 3). -/
theorem PowerHistory.poweringOff (hphase : s.ctr = .dwell) {u : State} (hu : SamePower s.tearingDown u) :
    PowerHistory (k + 1) (u.drive .pwrEn false) := by
  obtain ⟨n, rfl, htrace, -⟩ := h
  rewrite [hphase, if_neg (by decide)] at htrace
  have hctr : (u.drive .pwrEn false).ctr = .tearDown := by simp [hu.ctr, State.tearingDown]
  have hbefore : s.tearingDown.trace.filter Action.isPower = s.trace.filter Action.isPower := by
    simp [State.tearingDown, Action.isPower]
  refine ⟨n + 1, by rewrite [hphase, hctr]; rfl, ?_, by rewrite [hctr]; rfl⟩
  rewrite [State.drive_trace, List.filter_append, hu.trace, hbefore, htrace, hctr, if_pos rfl, List.append_nil,
    List.replicate_succ', List.flatten_append, List.append_assoc]
  rfl

/-- A boundary that is complete and back in `MAIN` is one more boundary in the history (R214 to R216). -/
theorem PowerHistory.period (hs : Ready s) {t : State} (ht : exec .period s = .next t) (hctx : t.ctx = .main)
    (htask : t.task = none) : PowerHistory (k + 1) t := by
  cases hphase : s.ctr with
  | tearDown =>
    by_cases htop : s.holdOf s.cfg.mBus = holdTop s.cfg
    · rewrite [exec_period_powerUp_fatal hs hphase htop] at ht
      cases ht
      cases hctx
    · rewrite [exec_period_powerUp_held hs hphase htop] at ht
      exact (h.poweringUp hphase).of_samePower (powerUpEnd_quiet (.refl _) _ t ht)
  | powerUp =>
    rewrite [exec_period_dwell hs hphase] at ht
    exact (h.afterDwell hphase).of_samePower (sampleTemp_quiet (.refl _) t ht)
  | dwell =>
    have hrun := busRun_quiet (.refl s.tearingDown)
      (writeFrame s.tearingDown.cfg s.cfg.offWrite.1 s.cfg.offWrite.2) 0x00#8
    have hoff : ∀ u, SamePower s.tearingDown u → powerOff u = .next t → PowerHistory (k + 1) t := fun u hu hend =>
      (h.poweringOff hphase hu).of_samePower (release_quiet (.refl _) (fun _ hv => sampleTemp_quiet hv) _ t hend)
    rewrite [exec_period_tearDown hs hphase] at ht
    cases hb : busRun (writeFrame s.tearingDown.cfg s.cfg.offWrite.1 s.cfg.offWrite.2) 0x00#8 s.tearingDown with
    | done v u => rewrite [hb] at hrun ht; exact hoff u hrun ht
    | timeout u => rewrite [hb] at hrun ht; exact hoff u hrun ht
    | waiting left u =>
      rewrite [hb] at ht
      cases ht
      cases htask

end Phases

/-! ### A run of operations -/

/-- By induction on the operations (R218). -/
theorem PowerHistory.run (ops : List (Instr × Env)) : ∀ {k : Nat} {s t : State}, PowerHistory k s → s.ctx = .main →
    s.task = none → runOps ops s = some t → PowerHistory (k + ops.countP fun op => op.1 = .period) t := by
  induction ops with
  | nil =>
    intro k s t h _ _ hrun
    cases hrun
    exact h
  | cons op ops ih =>
    intro k s t h hctx htask hrun
    obtain ⟨i, e⟩ := op
    rewrite [runOps] at hrun
    cases hnext : exec i (s.setEnv e) with
    | fault f => rewrite [hnext] at hrun; cases hrun
    | refused r => rewrite [hnext] at hrun; cases hrun
    | next u =>
      rewrite [hnext] at hrun
      dsimp only at hrun
      split at hrun
      case isFalse => cases hrun
      case isTrue hback =>
        obtain ⟨hctxu, htasku⟩ := hback
        have hs : Ready (s.setEnv e) := by
          refine ⟨?_, hctx, htask⟩
          by_contra hc
          rewrite [exec_invalid i (by simpa using hc)] at hnext
          cases hnext
        have hasked : PowerHistory k (s.setEnv e) := h.of_samePower (setEnv_quiet (.refl s) e)
        rewrite [List.countP_cons]
        by_cases hi : i = .period
        · subst hi
          have hu := hasked.period hs hnext hctxu htasku
          have hrest := ih hu hctxu htasku hrun
          simpa [Nat.add_assoc, Nat.add_comm, Nat.add_left_comm] using hrest
        · have hu := hasked.of_samePower (exec_quiet hi hs u hnext)
          have hrest := ih hu hctxu htasku hrun
          simpa [hi] using hrest

/-- Settles O50: the history of the run, at a whole number of cycles. -/
theorem devicePowerCyclesOncePerThreePeriods : Obligations.DevicePowerCyclesOncePerThreePeriods := by
  intro c ops n s hrun hcount
  obtain ⟨m, hk, htrace, hout⟩ := (powerHistory_reset c).run ops rfl rfl hrun
  rewrite [hcount, Nat.zero_add] at hk
  cases hphase : s.ctr with
  | tearDown =>
    rewrite [hphase] at hk htrace hout
    obtain rfl : n = m := Nat.eq_of_mul_eq_mul_left (by decide) hk
    exact ⟨by simpa using htrace, hout⟩
  | powerUp =>
    rewrite [hphase, boundaries] at hk
    omega
  | dwell =>
    rewrite [hphase, boundaries] at hk
    omega

end Sys2Proof.Machine

/-! The invariant of the block (`BlockInv`): every step from a state that meets it is safe (10_state R31 to R44).

`BlockInv` speaks of the states between two steps. `Mid` is what holds between two actions of an operation; `Safe` is what
the invariant gives of an operation's end. -/

namespace Sys2Proof.Machine

/-- The context an operation runs in while it waits at a task. -/
def Task.context (k : Task) : Ctx := if k.inHandler then .handler else .main

theorem Task.context_ne_faulted (k : Task) : k.context ≠ .faulted := by
  unfold Task.context; split <;> simp

theorem Task.context_ne_parked (k : Task) (m : Nat) : k.context ≠ .parked m := by
  unfold Task.context; split <;> simp

/-- After a tear-down power is off (43 R216, R218). -/
def OffAfterTearDown (p : Phase) (on : Bool) : Prop := p = .tearDown → on = false

/-- Inside the writes of phase 0 power is on (43 R214). -/
def PoweringUp (p : Phase) (on : Bool) : Prop := p = .powerUp ∧ on = true

/-- What the power schedule says of an operation that waits at a task (43 R214, R216). -/
def Task.power : Task → Phase → Bool → Prop
  | .powerUp _ _ => PoweringUp
  | .tearDown _ => fun p _ => p = .tearDown
  | .readReg _ | .writeReg _ | .subintWarm | .adcDone _ _ | .adcResult _ _ | .acmpOut => OffAfterTearDown

/-- The sum a waiting sampling has reached is in range (43 R221). -/
def Task.sumInRange (c : Config) : Task → Prop
  | .adcDone more total | .adcResult more total => sumOk c more total
  | .readReg _ | .writeReg _ | .subintWarm | .powerUp _ _ | .tearDown _ | .acmpOut => True

/-- Between two actions of an operation that runs in context `x` under `c`: the clauses of the invariant that no action
suspends, and `q` of the phase and the power output. `codes` are the ADC codes that were ready when the step began. -/
structure Mid (c : Config) (codes : List Nat) (x : Ctx) (q : Phase → Bool → Prop) (s : State) : Prop
    extends PlatformOk s, HoldOk s, RingOk s, LatchesOk s where
  cfg : s.cfg = c
  ctx : s.ctx = x
  sound : s.fault.any = false
  idle : s.task = none
  window : s.out.edgeIrqEn = true → s.out.pwrEn = true ∧ s.ctr ≠ .tearDown
  power : q s.ctr s.out.pwrEn
  temp : f32Number s.temp
  ready : s.env.adcResult ⊆ codes

/-- An operation ends in a state that meets the invariant, or is refused for one of the ready codes that is too wide. -/
def Safe (c : Config) (codes : List Nat) : Out → Prop
  | .next t => BlockInv t
  | .fault _ => False
  | .refused r => r = .adcResultTooWide ∧ ∃ k ∈ codes, 2 ^ c.adcW ≤ k

section Mid
variable {c : Config} {codes : List Nat} {x : Ctx} {q r : Phase → Bool → Prop} {s : State}

/-! ### Into and out of an operation -/

/-- With no task nothing is under way. -/
theorem BlockInv.mid_of_idle (h : BlockInv s) (hx : s.ctx = x) (hf : x ≠ .faulted) (ht : s.task = none) :
    Mid s.cfg s.env.adcResult x OffAfterTearDown s :=
  { h.platform, h.hold, h.ring, h.latches with
    cfg := rfl
    ctx := hx
    sound := by simpa [hx, hf] using h.context.faulted
    idle := ht
    window := h.schedule.powered
    power := fun hp => by simpa [ht] using h.schedule.off hp
    temp := h.numbers.temp
    ready := List.Subset.refl _ }

/-- Going on from a wait, the task is none again and what the invariant said of it holds. -/
theorem BlockInv.mid_of_running {k : Task} (h : BlockInv s) (ht : s.task = some k) :
    Mid s.cfg s.env.adcResult k.context k.power (s.setTask none) ∧ k.sumInRange s.cfg := by
  have hx : s.ctx = k.context := h.context.running k ht
  have hpow : k.power s.ctr s.out.pwrEn := by
    cases k with
    | powerUp left rest => exact h.schedule.poweringUp left rest ht
    | tearDown left => exact h.schedule.tearingDown left ht
    | readReg | writeReg | subintWarm | adcDone | adcResult | acmpOut =>
      exact fun hp => by simpa [ht] using h.schedule.off hp
  have hsum : k.sumInRange s.cfg := by
    cases k with
    | adcDone more total => exact h.numbers.done more total ht
    | adcResult more total => exact h.numbers.result more total ht
    | readReg | writeReg | subintWarm | powerUp | tearDown | acmpOut => trivial
  exact ⟨{ h.platform, h.hold, h.ring, h.latches with
    cfg := rfl
    ctx := hx
    sound := by simpa [hx, k.context_ne_faulted] using h.context.faulted
    idle := rfl
    window := h.schedule.powered
    power := hpow
    temp := h.numbers.temp
    ready := List.Subset.refl _ }, hsum⟩

/-- An operation that is complete leaves the invariant. -/
theorem Mid.complete (h : Mid c codes .main OffAfterTearDown s) : BlockInv s where
  platform := h.toPlatformOk
  hold := h.toHoldOk
  ring := h.toRingOk
  context := ⟨by simp [h.ctx, h.sound], by simp [h.ctx], by simp [h.ctx], by simp [h.idle]⟩
  latches := h.toLatchesOk
  schedule := ⟨h.window, fun hp hon => absurd (h.power hp) (by simp [hon]), by simp [h.idle], by simp [h.idle]⟩
  numbers := ⟨h.temp, by simp [h.idle], by simp [h.idle]⟩

/-- A processor parked in the selected mode meets the invariant (40 R136). -/
theorem Mid.park (h : Mid c codes x OffAfterTearDown s) {m : Nat} (hm : m < s.cfg.nmodes) (hs : s.selected = some m) :
    BlockInv (s.setCtx (.parked m)) where
  platform := { h.toPlatformOk with }
  hold := { h.toHoldOk with }
  ring := { h.toRingOk with }
  context := ⟨by simp [h.sound], fun n hn => by cases hn; exact ⟨hm, hs⟩, by simp, by simp [h.idle]⟩
  latches := { h.toLatchesOk with }
  schedule := ⟨h.window, fun hp hon => absurd (h.power hp) (by simpa using hon), by simp [h.idle], by simp [h.idle]⟩
  numbers := ⟨h.temp, by simp [h.idle], by simp [h.idle]⟩

/-- A fatal error stops the operation and leaves the invariant (60 R271, 10_state R44). -/
theorem Mid.raiseFatal (h : Mid c codes x OffAfterTearDown s) (k : FatalKind) : BlockInv (s.raiseFatal k) where
  platform := { h.toPlatformOk with }
  hold := { h.toHoldOk with }
  ring := { h.toRingOk with }
  context := ⟨by cases k <;> simp [FaultFlags.set, FaultFlags.any], by simp, by simp, by simp⟩
  latches := { h.toLatchesOk with }
  schedule := ⟨h.window, fun hp hon => absurd (h.power hp) (by simpa using hon), by simp, by simp⟩
  numbers := ⟨h.temp, by simp, by simp⟩

/-- The state at which an operation waits for an answer. -/
def WaitsAt (c : Config) (codes : List Nat) (k : Task) (s : State) : Prop :=
  Mid c codes k.context k.power s ∧ k.sumInRange c

/-- Staying at a wait leaves the invariant. -/
theorem WaitsAt.suspended {k : Task} (h : WaitsAt c codes k s) : BlockInv (s.setTask (some k)) := by
  obtain ⟨h, hsum⟩ := h
  have hp := h.power
  refine
    { platform := { h.toPlatformOk with }
      hold := { h.toHoldOk with }
      ring := { h.toRingOk with }
      context := ⟨?_, ?_, fun _ => rfl, fun t ht => ?_⟩
      latches := { h.toLatchesOk with }
      schedule := ⟨h.window, fun hd hon => ?_, fun left rest ht => ?_, fun left ht => ?_⟩
      numbers := ⟨h.temp, fun more total ht => ?_, fun more total ht => ?_⟩ }
  · simp [h.ctx, h.sound, k.context_ne_faulted]
  · simp [h.ctx, k.context_ne_parked]
  · cases ht
    exact h.ctx
  · cases k with
    | tearDown left => exact ⟨left, rfl⟩
    | powerUp => exact absurd (hp.1.symm.trans hd) (by simp)
    | readReg | writeReg | subintWarm | adcDone | adcResult | acmpOut =>
      exact absurd (hp hd) (by simpa using hon)
  · cases ht
    exact hp
  · cases ht
    exact hp
  · cases ht
    exact h.cfg ▸ hsum
  · cases ht
    exact h.cfg ▸ hsum

theorem suspend_safe {k : Task} (h : WaitsAt c codes k s) : Safe c codes (suspend k s) := h.suspended

/-! ### The single updates -/

/-- What a phase and a power output entail may replace what is said of them. -/
theorem Mid.weaken (h : Mid c codes x q s) (hqr : ∀ p on, q p on → r p on) : Mid c codes x r s :=
  { h with power := hqr _ _ h.power }

theorem Mid.emit (h : Mid c codes x q s) (a : Action) : Mid c codes x q (s.emit a) := { h with }

theorem Mid.respond (h : Mid c codes x q s) (st : Status) (d : Byte) : Mid c codes x q (s.respond st d) := { h with }

theorem Mid.raiseErr (h : Mid c codes x q s) (k : ErrKind) : Mid c codes x q (s.raiseErr k) := { h with }

theorem Mid.badOperand (h : Mid c codes x q s) : Mid c codes x q s.badOperand := (h.raiseErr _).respond _ _

theorem Mid.setEnv (h : Mid c codes x q s) {e : Env} (he : e.adcResult ⊆ codes) : Mid c codes x q (s.setEnv e) :=
  { h with ready := he }

theorem Mid.setCtx (h : Mid c codes x q s) (y : Ctx) : Mid c codes y q (s.setCtx y) := { h with ctx := rfl }

theorem Mid.handlerReturn (h : Mid c codes x OffAfterTearDown s) : BlockInv s.handlerReturn := (h.setCtx .main).complete

/-- Clearing a pending bit sets none. -/
theorem Pend.edge_of_put_false {p : Pend} {e : EventCode} (h : (p.put false e).edge = true) : p.edge = true := by
  cases e with
  | edge => cases h
  | subint | period | txrdy => exact h

theorem Mid.takeEvent (h : Mid c codes x q s) (e : EventCode) : Mid c codes .handler q (s.takeEvent e) :=
  { h with
    ctx := rfl
    edge := fun hp => h.edge (Pend.edge_of_put_false hp) }

theorem Mid.setTemp (h : Mid c codes x q s) {v : F32} (hv : f32Number v) : Mid c codes x q (s.setTemp v) :=
  { h with temp := hv }

/-- A counter written within its width (10_state R31). -/
theorem Mid.setHold (h : Mid c codes x q s) (m : Nat) {v : Nat} (hv : v ≤ holdTop s.cfg) :
    Mid c codes x q (s.setHold m v) :=
  { h with
    modes := by simpa using h.modes
    width := fun n hn => by
      rcases List.mem_or_eq_of_mem_set hn with hn | rfl
      · exact h.width n hn
      · exact hv }

/-- The ring written within its invariant. -/
theorem Mid.setRing (h : Mid c codes x q s) {cap head tail count : Byte} {m : Memory}
    (hr : RingOk { s with rbCap := cap, rbHead := head, rbTail := tail, rbCount := count, rbMem := m }) :
    Mid c codes x q { s with rbCap := cap, rbHead := head, rbTail := tail, rbCount := count, rbMem := m } :=
  { hr, h with }

/-- The latch written with the status, power and edge-interrupt bits as they were. -/
theorem Mid.setOut (h : Mid c codes x q s) {o : OutLatch} (hs : o.status = s.out.status) (hp : o.pwrEn = s.out.pwrEn)
    (he : o.edgeIrqEn = s.out.edgeIrqEn) : Mid c codes x q (s.setOut o) :=
  { h with
    status := hs.trans h.status
    edge := fun hpend => he.trans (h.edge hpend)
    window := fun hen => (h.window (he.symm.trans hen)).imp_left hp.trans
    power := by simpa [hp] using h.power }

/-- The comparator's enable is free (43 R211, R227). -/
theorem Mid.driveAcmp (h : Mid c codes x q s) (b : Bool) : Mid c codes x q (s.driveAcmp b) :=
  (h.emit _).setOut rfl rfl rfl

/-- The excitation is free (43 R211, R227). -/
theorem Mid.driveExcite (h : Mid c codes x q s) (b : Bool) : Mid c codes x q (s.drive .excite b) :=
  (h.emit _).setOut rfl rfl rfl

/-- The latch and what is pending written together, as driving the edge interrupt does (10_state R41). -/
theorem Mid.setOut_setPend (h : Mid c codes x q s) {o : OutLatch} {p : Pend} (hs : o.status = s.out.status)
    (he : p.edge = true → o.edgeIrqEn = true) (hw : o.edgeIrqEn = true → o.pwrEn = true ∧ s.ctr ≠ .tearDown)
    (hr : r s.ctr o.pwrEn) : Mid c codes x r ((s.setOut o).setPend p) :=
  { h with
    status := hs.trans h.status
    edge := he
    window := hw
    power := hr }

/-- Entering a phase (43 R213); phase 2 only with the edge interrupt off. -/
theorem Mid.setCtr (h : Mid c codes x q s) {p : Phase} (hp : s.out.edgeIrqEn = true → p ≠ .tearDown) :
    Mid c codes x (fun p' _ => p' = p) (s.setCtr p) :=
  { h with window := fun he => ⟨(h.window he).1, hp he⟩, power := rfl }

/-- Disarming the edge interrupt drops a latched edge (43 R216). -/
theorem Mid.disarmEdge (h : Mid c codes x q s) : Mid c codes x q (s.driveEdgeIrq false) :=
  (h.emit _).setOut_setPend rfl (by simp) (by simp) h.power

/-- Entering phase 2 and disarming the edge interrupt (43 R216); the two commute. -/
theorem Mid.enterTearDown (h : Mid c codes x q s) :
    Mid c codes x (fun p _ => p = .tearDown) ((s.setCtr .tearDown).driveEdgeIrq false) :=
  h.disarmEdge.setCtr (by simp)

/-- Power on in phase 0 (43 R214). -/
theorem Mid.powerOn (h : Mid c codes x (fun p _ => p = .powerUp) s) :
    Mid c codes x PoweringUp (s.drive .pwrEn true) :=
  (h.emit _).setOut_setPend (o := { s.out with pwrEn := true }) rfl h.edge (fun he => ⟨rfl, (h.window he).2⟩)
    ⟨h.power, rfl⟩

/-- Arming the edge interrupt while power is on (43 R214). -/
theorem Mid.armEdge (h : Mid c codes x PoweringUp s) : Mid c codes x OffAfterTearDown (s.driveEdgeIrq true) :=
  have hctr : s.ctr ≠ .tearDown := by simp [h.power.1]
  (h.emit _).setOut_setPend rfl (by simp) (fun _ => ⟨h.power.2, hctr⟩) (fun hp => absurd hp hctr)

/-- Power off in phase 2: the edge interrupt is off already (43 R216). -/
theorem Mid.powerOff (h : Mid c codes x (fun p _ => p = .tearDown) s) :
    Mid c codes x OffAfterTearDown (s.drive .pwrEn false) :=
  (h.emit _).setOut_setPend (o := { s.out with pwrEn := false }) rfl h.edge
    (fun he => absurd h.power (h.window he).2) fun _ => rfl

/-- The level, `led` and the status output written in step (10_state R41, 43 R229). -/
theorem Mid.setLevel (h : Mid c codes x q s) {v : Level} {b : Bool} (hv : v = .high ↔ b = true) :
    Mid c codes x q { s with thr := v, led := b, out := { s.out with status := b } } :=
  { h with status := rfl, level := hv }

/-- The toggles of a change keep the level and the status output in step with `led` (43 R229, R237). -/
theorem Mid.toggleOutputs (h : Mid c codes x q s) : Mid c codes x q s.toggleOutputs := by
  have hv : s.thr.toggle = .high ↔ (!s.led) = true := by
    have hl := h.level
    cases ht : s.thr <;> cases hb : s.led <;> simp_all [Level.toggle]
  exact ((h.setLevel hv).emit _).emit _

theorem Mid.hysteresis (h : Mid c codes x q s) (b : Bool) : Mid c codes x q (s.hysteresis b) := by
  unfold State.hysteresis
  split
  · exact { h with }
  · exact { h.toggleOutputs with }

/-! ### The shared procedures -/

theorem HoldOk.holdOf_le (h : HoldOk s) (m : Nat) : s.holdOf m ≤ holdTop s.cfg := by
  unfold State.holdOf
  rewrite [List.getD_eq_getElem?_getD]
  cases hm : s.hold[m]? with
  | none => exact Nat.zero_le _
  | some n => exact h.width n (List.mem_of_getElem? hm)

/-- Acquiring keeps what is under way, or stops it with the overflow (40 R130). -/
theorem Mid.acquire (h : Mid c codes x q s) (m : Nat) :
    (∃ t, acquire m s = .ok t ∧ Mid c codes x q t) ∨ acquire m s = .fatal (s.raiseFatal .holdOverflow) := by
  rcases acquire_cases m s with ⟨-, e⟩ | ⟨hne, e⟩
  · exact .inr e
  · exact .inl ⟨_, e, h.setHold m (lt_of_le_of_ne (h.toHoldOk.holdOf_le m) hne)⟩

/-- Releasing keeps what is under way, or stops it with the mismatch (40 R130). -/
theorem Mid.release (h : Mid c codes x q s) (m : Nat) :
    (∃ t, release m s = .ok t ∧ Mid c codes x q t) ∨ release m s = .fatal (s.raiseFatal .sleepHoldMismatch) := by
  rcases release_cases m s with ⟨-, e⟩ | ⟨-, e⟩
  · exact .inr e
  · exact .inl ⟨_, e, h.setHold m ((Nat.sub_le _ _).trans (h.toHoldOk.holdOf_le m))⟩

/-- The rest of a handler after an acquire is safe if it is safe from every state the acquire can leave. -/
theorem afterAcquire_safe {k : State → Out} {m : Nat} (h : Mid c codes x q s) (hq : ∀ p on, q p on → OffAfterTearDown p on)
    (hk : ∀ t, Mid c codes x q t → Safe c codes (k t)) : Safe c codes (afterHold k (acquire m s)) := by
  rcases h.acquire m with ⟨t, e, ht⟩ | e <;> rewrite [e]
  · exact hk t ht
  · exact (h.weaken hq).raiseFatal _

theorem afterRelease_safe {k : State → Out} {m : Nat} (h : Mid c codes x OffAfterTearDown s)
    (hk : ∀ t, Mid c codes x OffAfterTearDown t → Safe c codes (k t)) : Safe c codes (afterHold k (release m s)) := by
  rcases h.release m with ⟨t, e, ht⟩ | e <;> rewrite [e]
  · exact hk t ht
  · exact h.raiseFatal _

/-- Allocating within the storage built keeps what is under way. -/
theorem Mid.allocate (h : Mid c codes x q s) {n : Byte} (hn : n.toNat ≤ s.cfg.capMax) : Mid c codes x q (s.rbAllocate n) :=
  h.setRing (ringOk_rbAllocate hn)

/-- How an enqueue ends under the invariant: stored or full, never a fault of the model. -/
theorem Mid.enqueue (h : Mid c codes x q s) (b : Byte) :
    (∃ t, rbEnqueue b s = .stored t ∧ Mid c codes x q t) ∨ (∃ t, rbEnqueue b s = .full t ∧ Mid c codes x q t) := by
  by_cases hfull : s.rbCount = s.rbCap
  · exact .inr ⟨_, rbEnqueue_full b hfull, h.raiseErr _⟩
  · have hroom := h.toRingOk.count_lt_cap hfull
    exact .inl ⟨_, h.toRingOk.rbEnqueue_eq b hroom, h.setRing (h.toRingOk.enqueued b hroom)⟩

/-- How a dequeue ends under the invariant: a byte or empty, never a fault of the model. -/
theorem Mid.dequeue (h : Mid c codes x q s) :
    (∃ v t, rbDequeue s = .taken v t ∧ Mid c codes x q t) ∨ (∃ t, rbDequeue s = .empty t ∧ Mid c codes x q t) := by
  obtain hzero | hpos := s.rbCount.toNat.eq_zero_or_pos
  · exact .inr ⟨_, rbDequeue_empty (BitVec.eq_of_toNat_eq hzero), h.raiseErr _⟩
  · obtain ⟨v, -, htaken⟩ := h.toRingOk.rbDequeue_eq hpos
    exact .inl ⟨v, _, htaken, h.setRing (h.toRingOk.dequeued hpos)⟩

/-- A run of an exchange touches no cell of the invariant. -/
theorem Mid.busRun (h : Mid c codes x q s) (f : List BusStep) (v : Byte) : Mid c codes x q (busRun f v s).state :=
  busRun_keeps (Mid c codes x q) (fun _ a h => h.emit a) (fun _ _ h => h.setEnv h.ready) (fun _ _ h => h.setEnv h.ready)
    (fun _ h => h.raiseErr _) f v s h

end Mid
end Sys2Proof.Machine

/-! ### `PERIOD` steps 2 to 5 (43 R220 to R233) -/

namespace Sys2Proof.Machine
section Sampling
variable {c : Config} {codes : List Nat} {s : State}

/-- Between two actions of a handler outside the writes of the power schedule. -/
abbrev Handling (c : Config) (codes : List Nat) (s : State) : Prop := Mid c codes .handler OffAfterTearDown s

theorem sendNext_safe (h : Handling c codes s) : Safe c codes (sendNext s) := by
  unfold sendNext
  rcases h.dequeue with ⟨v, t, e, ht⟩ | ⟨t, e, ht⟩ <;> rewrite [e]
  · exact (ht.emit _).handlerReturn
  · exact ht.handlerReturn

/-- How enqueueing several bytes ends under the invariant. -/
theorem enqueueAll_cases (bytes : List Byte) : ∀ {s : State}, Handling c codes s →
    (∃ t, enqueueAll bytes s = .stored t ∧ Handling c codes t) ∨
    (∃ t, enqueueAll bytes s = .full t ∧ Handling c codes t) := by
  induction bytes with
  | nil => exact fun h => .inl ⟨_, rfl, h⟩
  | cons b bytes ih =>
    intro s h
    unfold enqueueAll
    rcases h.enqueue b with ⟨t, e, ht⟩ | ⟨t, e, ht⟩ <;> rewrite [e]
    · exact ih ht
    · exact .inr ⟨t, rfl, ht⟩

theorem handOff_safe (h : Handling c codes s) : Safe c codes (handOff s) := by
  unfold handOff
  rcases enqueueAll_cases (burst s) (h.allocate (ringSize_le_of_configOk h.config)) with ⟨t, e, ht⟩ | ⟨t, e, ht⟩ <;> rewrite [e]
  · exact afterAcquire_safe ht (fun _ _ hp => hp) fun _ => sendNext_safe
  · exact ht.handlerReturn

theorem readComparator_safe (h : Handling c codes s) : Safe c codes (readComparator s) := by
  unfold readComparator
  split
  · exact suspend_safe ⟨h, trivial⟩
  · refine handOff_safe (Mid.hysteresis (((h.setEnv ?_).driveAcmp false).driveExcite false) _)
    exact h.ready

/-- How one conversion ends under the invariant: a code that is too wide was ready when the step began (93 I13). -/
def SampleSafe (c : Config) (codes : List Nat) : Sample → Prop
  | .code k s => k < 2 ^ c.adcW ∧ Handling c codes s
  | .notDone s => Handling c codes s
  | .noResult s => Handling c codes s
  | .tooWide => ∃ k ∈ codes, 2 ^ c.adcW ≤ k

theorem adcRead_safe (h : Handling c codes s) : SampleSafe c codes (adcRead s) := by
  have hr := h.ready
  unfold adcRead
  split
  · exact h
  · rename_i k more he
    rewrite [he] at hr
    rewrite [h.cfg]
    split
    · exact ⟨‹_›, h.setEnv (List.subset_of_cons_subset hr)⟩
    · exact ⟨k, hr (List.mem_cons_self ..), Nat.le_of_not_lt ‹_›⟩

theorem adcWait_safe (h : Handling c codes s) : SampleSafe c codes (adcWait s) := by
  unfold adcWait
  split
  · exact h.setEnv h.ready
  · exact adcRead_safe (h.setEnv h.ready)

/-- How the conversion loop ends under the invariant. -/
def AdcSafe (c : Config) (codes : List Nat) : AdcEnd → Prop
  | .sum total s => total ≤ c.adcSamples * (2 ^ c.adcW - 1) ∧ Handling c codes s
  | .waiting k s => WaitsAt c codes k s
  | .tooWide => ∃ k ∈ codes, 2 ^ c.adcW ≤ k

/-- The sum after one more code (43 R221). -/
theorem sumOk.add_code {more total k : Nat} (h : sumOk c more total) (hk : k < 2 ^ c.adcW) :
    total + k ≤ (c.adcSamples - more) * (2 ^ c.adcW - 1) := by
  obtain ⟨hm, ht⟩ := h
  have hn : c.adcSamples - more = c.adcSamples - 1 - more + 1 := by omega
  rewrite [hn, Nat.add_mul, Nat.one_mul]
  omega

/-- A turn of the loop is a conversion and what follows it. -/
theorem adcLoop_succ (n total : Nat) (s : State) :
    adcLoop (n + 1) total s = adcResume n total (adcWait (s.emit .adcStart)) := by
  rewrite [adcLoop]
  cases adcWait (s.emit .adcStart) <;> rfl

theorem adcResume_safe {more total : Nat} {a : Sample} (hsum : sumOk c more total) (ha : SampleSafe c codes a)
    (hloop : ∀ total s, Handling c codes s → total ≤ (c.adcSamples - more) * (2 ^ c.adcW - 1) →
      AdcSafe c codes (adcLoop more total s)) : AdcSafe c codes (adcResume more total a) := by
  cases a with
  | code k s => exact hloop _ _ ha.2 (hsum.add_code ha.1)
  | notDone s => exact ⟨ha, hsum⟩
  | noResult s => exact ⟨ha, hsum⟩
  | tooWide => exact ha

theorem adcLoop_safe (n : Nat) : ∀ total s, Handling c codes s → n ≤ c.adcSamples →
    total ≤ (c.adcSamples - n) * (2 ^ c.adcW - 1) → AdcSafe c codes (adcLoop n total s) := by
  induction n with
  | zero => exact fun total s h _ ht => ⟨ht, h⟩
  | succ n ih =>
    intro total s h hn ht
    have hsum : sumOk c n total := ⟨hn, by rwa [Nat.sub_sub, Nat.add_comm 1 n]⟩
    rewrite [adcLoop_succ]
    exact adcResume_safe hsum (adcWait_safe (h.emit _)) fun total s h => ih total s h (by omega)

theorem storeTemp_safe {total : Nat} (h : Handling c codes s) (ht : total ≤ c.adcSamples * (2 ^ c.adcW - 1)) :
    Safe c codes (storeTemp total s) := by
  have hc : configOk c = true := h.cfg ▸ h.config
  have hpos : 0 < c.adcSamples := (adc_of_configOk hc).1
  have hmean : total / c.adcSamples < 2 ^ c.adcW :=
    lt_of_le_of_lt (Nat.div_le_of_le_mul ht) (Nat.sub_lt (by positivity) Nat.one_pos)
  obtain ⟨-, -, t, -, -, he, hnum⟩ := convert_correct hc hmean
  unfold storeTemp
  rewrite [h.cfg, he]
  exact afterRelease_safe (h.setTemp hnum) fun _ => readComparator_safe

theorem adcEnd_safe {a : AdcEnd} (h : AdcSafe c codes a) : Safe c codes (adcEnd a) := by
  cases a with
  | sum total s => exact storeTemp_safe h.2 h.1
  | waiting k s => exact suspend_safe h
  | tooWide => exact ⟨rfl, h⟩

theorem sampleTemp_safe (h : Handling c codes s) : Safe c codes (sampleTemp s) :=
  afterAcquire_safe h (fun _ _ hp => hp) fun t ht =>
    adcEnd_safe (adcLoop_safe _ _ _ ht (by rw [ht.cfg]) (Nat.zero_le _))

/-! ### `PERIOD` step 1 (43 R213 to R217) -/

/-- How the writes of phase 0 end under the invariant. -/
def WritesSafe (c : Config) (codes : List Nat) : WritesEnd → Prop
  | .done s => Mid c codes .handler PoweringUp s
  | .waiting k s => WaitsAt c codes k s

/-- A write of phase 0 and what follows it. -/
theorem configWrites_cons (w : Byte × Byte) (rest : List (Byte × Byte)) (s : State) :
    configWrites (w :: rest) s = configResume rest (busRun (writeFrame s.cfg w.1 w.2) 0x00#8 s) := by
  obtain ⟨a, v⟩ := w
  rewrite [configWrites]
  cases busRun (writeFrame s.cfg a v) 0x00#8 s <;> rfl

theorem configResume_safe {rest : List (Byte × Byte)} {b : BusEnd} (hb : Mid c codes .handler PoweringUp b.state)
    (hrest : ∀ s, Mid c codes .handler PoweringUp s → WritesSafe c codes (configWrites rest s)) :
    WritesSafe c codes (configResume rest b) := by
  cases b with
  | done v s => exact hrest _ hb
  | timeout s => exact hb
  | waiting left s => exact ⟨hb, trivial⟩

theorem configWrites_safe (writes : List (Byte × Byte)) :
    ∀ s, Mid c codes .handler PoweringUp s → WritesSafe c codes (configWrites writes s) := by
  induction writes with
  | nil => exact fun s h => h
  | cons w writes ih =>
    intro s h
    rewrite [configWrites_cons]
    exact configResume_safe (h.busRun _ _) ih

theorem powerUpEnd_safe {w : WritesEnd} (h : WritesSafe c codes w) : Safe c codes (powerUpEnd w) := by
  cases w with
  | done s => exact sampleTemp_safe h.armEdge
  | waiting k s => exact suspend_safe h

theorem tearDownEnd_safe {b : BusEnd} (h : Mid c codes .handler (fun p _ => p = .tearDown) b.state) :
    Safe c codes (tearDownEnd b) := by
  have hoff : ∀ s, Mid c codes .handler (fun p _ => p = .tearDown) s → Safe c codes (powerOff s) := fun s h =>
    afterRelease_safe h.powerOff fun _ => sampleTemp_safe
  cases b with
  | done v s => exact hoff s h
  | timeout s => exact hoff s h
  | waiting left s => exact suspend_safe ⟨h, trivial⟩

theorem periodHandler_safe (h : Handling c codes s) : Safe c codes (periodHandler s) := by
  unfold periodHandler
  split
  · refine afterAcquire_safe (h.setCtr (p := .powerUp) (by simp)) (fun p on hp hd => ?_) fun t ht => ?_
    · rewrite [hp] at hd
      cases hd
    · exact powerUpEnd_safe (configWrites_safe _ _ (ht.powerOn.emit _))
  · refine sampleTemp_safe ((h.setCtr (p := .dwell) (by simp)).weaken fun p on hp hd => ?_)
    rewrite [hp] at hd
    cases hd
  · exact tearDownEnd_safe (h.enterTearDown.busRun _ _)

/-! ### The other handlers (43 R211, R235, R236) -/

theorem warmWait_safe (h : Handling c codes s) : Safe c codes (warmWait s) := by
  unfold warmWait
  split
  · exact suspend_safe ⟨h.setEnv h.ready, trivial⟩
  · refine Mid.handlerReturn (h.setEnv ?_)
    exact h.ready

theorem subintHandler_safe (h : Handling c codes s) : Safe c codes (subintHandler s) :=
  warmWait_safe ((h.driveAcmp true).driveExcite true)

theorem txrdyHandler_safe (h : Handling c codes s) : Safe c codes (txrdyHandler s) := by
  unfold txrdyHandler
  split
  · exact afterRelease_safe h fun _ ht => ht.handlerReturn
  · exact sendNext_safe h

theorem edgeHandler_safe (h : Handling c codes s) : Safe c codes (edgeHandler s) := (h.emit .edgeFwd).handlerReturn

end Sampling

/-! ### The commands -/

section Commands
variable {c : Config} {codes : List Nat} {s : State}

/-- Between two actions of a command. -/
abbrev Commanding (c : Config) (codes : List Nat) (s : State) : Prop := Mid c codes .main OffAfterTearDown s

/-- A response is no matter of the invariant. -/
theorem BlockInv.respond (h : BlockInv s) (st : Status) (d : Byte) : BlockInv (s.respond st d) where
  platform := { h.platform with }
  hold := { h.hold with }
  ring := { h.ring with }
  context := { h.context with }
  latches := { h.latches with }
  schedule := { h.schedule with }
  numbers := { h.numbers with }

theorem acqRun_safe (m : Byte) (h : Commanding c codes s) : Safe c codes (acqRun m s) := by
  unfold acqRun
  split
  · exact h.badOperand.complete
  · rcases h.acquire m.toNat with ⟨t, e, ht⟩ | e <;> rewrite [e]
    · exact (ht.respond _ _).complete
    · exact (h.raiseFatal _).respond _ _

theorem relRun_safe (m : Byte) (h : Commanding c codes s) : Safe c codes (relRun m s) := by
  unfold relRun
  split
  · exact h.badOperand.complete
  · rcases h.release m.toNat with ⟨t, e, ht⟩ | e <;> rewrite [e]
    · exact (ht.respond _ _).complete
    · exact (h.raiseFatal _).respond _ _

/-- What is selected is a mode (40 R131). -/
theorem sel_lt {n m : Nat} {holds : List Nat} (hn : 0 < n) (h : sel n holds = some m) : m < n := by
  cases hf : firstHeld n holds with
  | none =>
    rewrite [sel_of_firstHeld_none hf] at h
    cases h
    omega
  | some k =>
    rewrite [sel_of_firstHeld_some hf] at h
    obtain ⟨hk, -⟩ := firstHeld_eq_some_iff.mp hf
    split at h
    · cases h
    · cases h
      omega

theorem enterRun_safe (h : Commanding c codes s) : Safe c codes (enterRun s) := by
  cases hsel : s.selected with
  | none =>
    rewrite [enterRun_none hsel]
    exact ((h.emit _).respond _ _).complete
  | some m =>
    cases hp : s.pend.any with
    | true =>
      rewrite [enterRun_wakes hsel hp]
      exact ((((h.emit _).setCtx _).emit _).setCtx .main |>.respond _ _).complete
    | false =>
      obtain ⟨hmodes, -⟩ := (configOk_iff s.cfg).mp h.config
      rewrite [enterRun_parks hsel hp]
      exact (h.emit (.park m)).park (sel_lt (Nat.zero_lt_of_lt hmodes) hsel) hsel

theorem allocRun_safe (n : Byte) (h : Commanding c codes s) : Safe c codes (allocRun n s) := by
  unfold allocRun
  split
  · exact h.badOperand.complete
  · rename_i hn
    exact ((h.allocate (by simpa [capInRange] using hn)).respond _ _).complete

theorem enqRun_safe (b : Byte) (h : Commanding c codes s) : Safe c codes (enqRun b s) := by
  unfold enqRun
  rcases h.enqueue b with ⟨t, e, ht⟩ | ⟨t, e, ht⟩ <;> rewrite [e]
  · exact (ht.respond _ _).complete
  · exact (ht.respond _ _).complete

theorem deqRun_safe (h : Commanding c codes s) : Safe c codes (deqRun s) := by
  unfold deqRun
  rcases h.dequeue with ⟨v, t, e, ht⟩ | ⟨t, e, ht⟩ <;> rewrite [e]
  · exact (ht.respond _ _).complete
  · exact (ht.respond _ _).complete

theorem readEnd_safe {b : BusEnd} (h : Commanding c codes b.state) : Safe c codes (readEnd b) := by
  cases b with
  | done v s => exact (h.respond _ _).complete
  | timeout s => exact (h.respond _ _).complete
  | waiting left s => exact suspend_safe (k := .readReg left) ⟨h, trivial⟩

theorem writeEnd_safe {b : BusEnd} (h : Commanding c codes b.state) : Safe c codes (writeEnd b) := by
  cases b with
  | done v s => exact (h.respond _ _).complete
  | timeout s => exact (h.respond _ _).complete
  | waiting left s => exact suspend_safe (k := .writeReg left) ⟨h, trivial⟩

theorem rdsrRun_safe (n : Byte) (h : Commanding c codes s) : Safe c codes (rdsrRun n s) := by
  unfold rdsrRun
  split
  · exact h.badOperand.complete
  · exact (h.respond _ _).complete

theorem illegalRun_safe (h : Commanding c codes s) : Safe c codes (illegalRun s) :=
  ((h.raiseErr _).respond _ _).complete

/-! ### Every operation, every going on, every step -/

/-- A command is safe in every context if its run is. -/
theorem onCommand_safe {run : State → Out} (h : BlockInv s)
    (hrun : Commanding s.cfg s.env.adcResult s → Safe s.cfg s.env.adcResult (run s)) :
    Safe s.cfg s.env.adcResult (onCommand run s) := by
  rcases onCommand_cases (run := run) h.platform.config with ⟨hx, ht, e⟩ | ⟨-, e⟩ | ⟨-, -, e⟩ <;> rewrite [e]
  · exact hrun (h.mid_of_idle hx (by simp) ht)
  · exact h.respond _ _
  · exact h

/-- An arrival leaves the invariant: an edge is latched only while its interrupt is enabled (10_state R43). -/
theorem BlockInv.latch (h : BlockInv s) (e : EventCode) : BlockInv (s.latch e) := by
  unfold State.latch
  split
  · exact h
  · rename_i he
    exact
      { platform := { h.platform with }
        hold := { h.hold with }
        ring := { h.ring with }
        context := { h.context with }
        latches :=
          { h.latches with
            edge := fun hp => by
              cases e with
              | edge => simpa using he
              | subint | period | txrdy => exact h.latches.edge hp }
        schedule := { h.schedule with }
        numbers := { h.numbers with } }

/-- An event is safe in every context if its handler is. -/
theorem onEvent_safe {e : EventCode} {k : State → Out} (h : BlockInv s)
    (hk : ∀ t, Handling s.cfg s.env.adcResult t → Safe s.cfg s.env.adcResult (k t)) :
    Safe s.cfg s.env.adcResult (onEvent e k s) := by
  rcases onEvent_cases (e := e) (k := k) h.platform.config with ⟨hx, ht, eq⟩ | ⟨-, eq⟩ <;> rewrite [eq]
  · exact hk _ ((h.mid_of_idle hx (by simp) ht).takeEvent e)
  · exact h.latch e

theorem execRdsr_safe (n : Byte) (h : BlockInv s) : Safe s.cfg s.env.adcResult (execRdsr n s) := by
  unfold execRdsr
  split
  · rewrite [if_neg (by simp [h.platform.config])]
    exact h.respond _ _
  · exact onCommand_safe h (rdsrRun_safe n)

/-- Every operation is safe from every state that meets the invariant. -/
theorem exec_safe (i : Instr) (h : BlockInv s) : Safe s.cfg s.env.adcResult (exec i s) := by
  cases i with
  | acq m => exact onCommand_safe h (acqRun_safe m)
  | rel m => exact onCommand_safe h (relRun_safe m)
  | sel => exact onCommand_safe h fun hm => (hm.respond _ _).complete
  | enter => exact onCommand_safe h enterRun_safe
  | alloc n => exact onCommand_safe h (allocRun_safe n)
  | enq b => exact onCommand_safe h (enqRun_safe b)
  | deq => exact onCommand_safe h deqRun_safe
  | rdreg a => exact onCommand_safe h fun hm => readEnd_safe (hm.busRun _ _)
  | wrreg a v => exact onCommand_safe h fun hm => writeEnd_safe (hm.busRun _ _)
  | rdsr n => exact execRdsr_safe n h
  | subint => exact onEvent_safe h fun _ => subintHandler_safe
  | period => exact onEvent_safe h fun _ => periodHandler_safe
  | txrdy => exact onEvent_safe h fun _ => txrdyHandler_safe
  | edge => exact onEvent_safe h fun _ => edgeHandler_safe

/-- Going on from every wait is safe. -/
theorem resume_safe {k : Task} (h : BlockInv s) (ht : s.task = some k) : Safe s.cfg s.env.adcResult (resume k s) := by
  obtain ⟨hm, hsum⟩ := h.mid_of_running ht
  unfold resume
  rewrite [if_neg (by simp [h.platform.config])]
  cases k with
  | readReg left => exact readEnd_safe (hm.busRun _ _)
  | writeReg left => exact writeEnd_safe (hm.busRun _ _)
  | subintWarm => exact warmWait_safe hm
  | powerUp left rest => exact powerUpEnd_safe (configResume_safe (hm.busRun _ _) (configWrites_safe rest))
  | tearDown left => exact tearDownEnd_safe (hm.busRun _ _)
  | adcDone more total =>
    exact adcEnd_safe (adcResume_safe hsum (adcWait_safe hm) fun t u hu => adcLoop_safe more t u hu hsum.1.le)
  | adcResult more total =>
    exact adcEnd_safe (adcResume_safe hsum (adcRead_safe hm) fun t u hu => adcLoop_safe more t u hu hsum.1.le)
  | acmpOut => exact readComparator_safe hm

/-- The ports' data and the count of choices are no matter of the invariant, as long as the resets to come are of
configurations. -/
theorem BlockInv.setPorts (h : BlockInv s) {env : Env} {cmdIn : List CmdWord} {script : List (List EnvAct)}
    {trace : List Action} {rsp : List RspWord} {choiceIx : Nat}
    (hs : ∀ acts ∈ script, ∀ c, EnvAct.reset c ∈ acts → configOk c = true) :
    BlockInv { s with
      env := env, cmdIn := cmdIn, script := script, trace := trace, rsp := rsp, choiceIx := choiceIx } where
  platform := ⟨h.platform.config, hs⟩
  hold := { h.hold with }
  ring := { h.ring with }
  context := { h.context with }
  latches := { h.latches with }
  schedule := { h.schedule with }
  numbers := { h.numbers with }

theorem serveCommand_safe (h : BlockInv s) : Safe s.cfg s.env.adcResult (serveCommand s) := by
  have hport : ∀ rest, BlockInv { s with cmdIn := rest } := fun _ => h.setPorts h.platform.resets
  unfold serveCommand
  split
  · exact h
  · split
    · exact exec_safe _ (hport _)
    · exact onCommand_safe (hport _) illegalRun_safe

/-- The end of a park leaves the invariant (40 R137). -/
theorem BlockInv.wakeFrom {m : Nat} (h : BlockInv s) (hx : s.ctx = .parked m) : BlockInv (s.wakeFrom m) := by
  have ht : s.task = none := by
    cases ht : s.task with
    | none => rfl
    | some k =>
      have := h.context.running k ht
      exact absurd (this.symm.trans hx) (k.context_ne_parked m)
  exact ((((h.mid_of_idle hx (by simp) ht).emit .wake).setCtx .main).respond _ _).complete

/-- One act of the block is safe, whatever its context. -/
theorem serve_safe (h : BlockInv s) : Safe s.cfg s.env.adcResult (serve s) := by
  unfold serve
  split
  · exact serveCommand_safe h
  · rename_i m hx
    show BlockInv _
    split
    · exact h.wakeFrom hx
    · exact h
  · rename_i hx ht
    simpa [ht] using h.context.handler hx
  · exact resume_safe h ‹_›
  · exact resume_safe h ‹_›
  · split
    · rename_i hp
      obtain ⟨-, n, rfl⟩ := pickEvent_pending hp
      exact exec_safe (s := { s with choiceIx := n }) _ (h.setPorts h.platform.resets)
    · exact serveCommand_safe h

/-- The block right after reset meets the invariant (10_state R60). -/
theorem blockInv_resetOf {c : Config} (hc : configOk c = true) : BlockInv (State.resetOf c) := by
  exact
    { platform := ⟨hc, fun acts ha => by cases ha⟩
      hold := ⟨List.length_replicate, fun n hn => (List.eq_of_mem_replicate hn).le.trans (Nat.zero_le _)⟩
      ring := { ringOk_rbAllocate (s := State.resetOf c) (ringSize_le_of_configOk hc) with }
      context := ⟨by simp [State.resetOf, FaultFlags.any, FaultFlags.zero], by simp [State.resetOf], by simp [State.resetOf],
        by simp [State.resetOf]⟩
      latches := ⟨rfl, by simp [State.resetOf], by simp [State.resetOf, Pend.zero]⟩
      schedule := ⟨by simp [State.resetOf, OutLatch.zero], by simp [State.resetOf, OutLatch.zero], by simp [State.resetOf],
        by simp [State.resetOf]⟩
      numbers := ⟨.inl (show f32Finite 0x00000000#32 = true by decide), by simp [State.resetOf], by simp [State.resetOf]⟩ }

/-- An act of the environment leaves the invariant, a reset if it is of a configuration (70 R310). -/
theorem BlockInv.envAct (h : BlockInv s) {a : EnvAct} (ha : ∀ c, a = .reset c → configOk c = true) :
    BlockInv (s.envAct a) := by
  cases a with
  | event e => exact h.latch e
  | command w => exact h.setPorts h.platform.resets
  | answer v => exact h.setPorts h.platform.resets
  | reset c => exact (blockInv_resetOf (ha c rfl)).setPorts h.platform.resets

/-- The environment's acts of a slot leave the invariant. -/
theorem BlockInv.environment (h : BlockInv s) : BlockInv s.environment := by
  refine environment_keeps BlockInv (h.setPorts fun acts ha => ?_) fun u a ha hu => hu.envAct fun c hc => ?_
  · exact h.platform.resets acts (List.mem_of_mem_tail ha)
  · obtain ⟨acts, hacts, hmem⟩ := ha
    exact h.platform.resets acts (List.mem_of_mem_head? hacts) c (hc ▸ hmem)

/-- A step is safe from every state that meets the invariant. -/
theorem step_safe (h : BlockInv s) : Safe s.environment.cfg s.environment.env.adcResult (step s) :=
  serve_safe h.environment

end Commands

/-- Settles O58: a step is safe, and a safe step that answers a next state keeps the invariant. -/
theorem stepKeepsTheInvariant : Obligations.StepKeepsTheInvariant := by
  intro s t h hs
  have := step_safe h
  rwa [hs] at this

/-- Settles O59: no fault is safe. -/
theorem noStepFaults : Obligations.NoStepFaults := by
  intro s f h hs
  have := step_safe h
  rwa [hs] at this

/-- Settles O60: the only safe refusal is that of a code too wide. -/
theorem onlyAWideCodeIsRefused : Obligations.OnlyAWideCodeIsRefused := by
  intro s r h hs
  have := step_safe h
  rwa [hs] at this

/-- Settles O57. -/
theorem resetMeetsTheInvariant : Obligations.ResetMeetsTheInvariant := fun _ => blockInv_resetOf

end Sys2Proof.Machine

/-! ### The sticky flags (10_state R42) -/

namespace Sys2Proof.Machine
section Flags
variable {s t : State}

theorem KeepsFlags.refl (s : State) : KeepsFlags s s := ⟨id, id, id, id, id, id, id⟩

theorem KeepsFlags.raiseErr (h : KeepsFlags s t) (k : ErrKind) : KeepsFlags s (t.raiseErr k) := by
  obtain ⟨hfull, hempty, htime, hcmd, hop, hfault⟩ := h
  cases k with
  | bufFull => exact ⟨fun _ => rfl, hempty, htime, hcmd, hop, hfault⟩
  | bufEmpty => exact ⟨hfull, fun _ => rfl, htime, hcmd, hop, hfault⟩
  | protoTimeout => exact ⟨hfull, hempty, fun _ => rfl, hcmd, hop, hfault⟩
  | badCmd => exact ⟨hfull, hempty, htime, fun _ => rfl, hop, hfault⟩
  | badOperand => exact ⟨hfull, hempty, htime, hcmd, fun _ => rfl, hfault⟩

theorem KeepsFlags.raiseFatal (h : KeepsFlags s t) (k : FatalKind) : KeepsFlags s (t.raiseFatal k) := by
  obtain ⟨hfull, hempty, htime, hcmd, hop, hmismatch, hover⟩ := h
  cases k with
  | sleepHoldMismatch => exact ⟨hfull, hempty, htime, hcmd, hop, fun _ => rfl, hover⟩
  | holdOverflow => exact ⟨hfull, hempty, htime, hcmd, hop, hmismatch, fun _ => rfl⟩

/-- No single update clears a flag: raising sets one, and nothing else writes them. -/
theorem closed_keepsFlags (s : State) : Closed (KeepsFlags s) where
  err := fun _ k h => h.raiseErr k
  fatal := fun _ k h => h.raiseFatal k
  emit := fun _ _ h => h
  respond := fun _ _ _ h => h
  hold := fun _ _ _ h => h
  out := fun _ _ h => h
  pend := fun _ _ h => h
  ctx := fun _ _ h => h
  task := fun _ _ h => h
  env := fun _ _ h => h
  ctr := fun _ _ h => h
  temp := fun _ _ h => h
  ring := fun _ _ _ _ _ _ h => h
  thr := fun _ _ h => h
  led := fun _ _ h => h
  cmp := fun _ _ h => h

/-- Of the environment's acts only a reset clears flags. -/
theorem KeepsFlags.envAct (h : KeepsFlags s t) {a : EnvAct} (ha : ∀ c, a ≠ .reset c) : KeepsFlags s (t.envAct a) := by
  cases a with
  | event e =>
    show KeepsFlags s (t.latch e)
    unfold State.latch
    split
    · exact h
    · exact h
  | command w => exact h
  | answer v => exact h
  | reset c => exact absurd rfl (ha c)

end Flags

/-- Settles O14: the flags are kept by every single update, hence by every operation, by going on with one, and by a step
without a reset. -/
theorem flagsAreSticky : Obligations.FlagsAreSticky := by
  refine ⟨fun i s t h => exec_keeps (closed_keepsFlags s) i (.refl s) t h,
    fun k s t h => resume_keeps (closed_keepsFlags s) k (.refl s) t h, fun s t hslot h => ?_⟩
  have henv : KeepsFlags s s.environment := by
    refine environment_keeps (KeepsFlags s) (.refl s) fun u a ⟨acts, hacts, ha⟩ hu => hu.envAct fun c hc => ?_
    exact hslot acts c hacts (hc ▸ ha)
  exact serve_keeps (closed_keepsFlags s) (fun _ _ h => h) (fun _ _ h => h) henv t h

end Sys2Proof.Machine

/-! ### The status registers (10_state R46) -/

namespace Sys2Proof.Machine

theorem byteOfBits_two : ∀ b0 b1 : Bool,
    byteOfBits b0 b1 false false false = (BitVec.ofBool b1 ++ BitVec.ofBool b0).zeroExtend 8 := by
  decide

theorem byteOfBits_three : ∀ b0 b1 b2 : Bool,
    byteOfBits b0 b1 b2 false false = (BitVec.ofBool b2 ++ BitVec.ofBool b1 ++ BitVec.ofBool b0).zeroExtend 8 := by
  decide

theorem byteOfBits_four : ∀ b0 b1 b2 b3 : Bool,
    byteOfBits b0 b1 b2 b3 false =
      (BitVec.ofBool b3 ++ BitVec.ofBool b2 ++ BitVec.ofBool b1 ++ BitVec.ofBool b0).zeroExtend 8 := by
  decide

theorem byteOfBits_five : ∀ b0 b1 b2 b3 b4 : Bool,
    byteOfBits b0 b1 b2 b3 b4 =
      (BitVec.ofBool b4 ++ BitVec.ofBool b3 ++ BitVec.ofBool b2 ++ BitVec.ofBool b1 ++ BitVec.ofBool b0).zeroExtend 8 := by
  decide

/-- The registers of the hold counters. -/
theorem readSr_hold {s : State} {n : Byte} (h : n.toNat < s.cfg.nmodes) :
    readSr s n = some (BitVec.ofNat 8 (s.holdOf n.toNat % 2 ^ s.cfg.holdW)) := if_pos h

/-- With at most 16 modes no number from 0x10 on is that of a hold counter. -/
theorem not_hold_register {c : Config} (hc : c.nmodes ≤ 16) {n : Byte} (hn : 16 ≤ n.toNat) : ¬ n.toNat < c.nmodes :=
  Nat.not_lt.mpr (hc.trans hn)

section Registers
variable {s : State} (hc : s.cfg.nmodes ≤ 16)
include hc

theorem readSr_count : readSr s 0x10#8 = some s.rbCount := (if_neg (not_hold_register hc (by decide))).trans rfl

theorem readSr_head : readSr s 0x11#8 = some s.rbHead := (if_neg (not_hold_register hc (by decide))).trans rfl

theorem readSr_tail : readSr s 0x12#8 = some s.rbTail := (if_neg (not_hold_register hc (by decide))).trans rfl

theorem readSr_cap : readSr s 0x13#8 = some s.rbCap := (if_neg (not_hold_register hc (by decide))).trans rfl

theorem readSr_ctr : readSr s 0x20#8 = some s.ctr.byte := (if_neg (not_hold_register hc (by decide))).trans rfl

theorem readSr_dcFlags : readSr s 0x21#8 = some (dcFlagsByte s.lastCmp s.led s.thr) := (if_neg (not_hold_register hc (by decide))).trans rfl

theorem readSr_temp0 : readSr s 0x22#8 = some (s.temp.extractLsb' 0 8) := (if_neg (not_hold_register hc (by decide))).trans rfl

theorem readSr_temp1 : readSr s 0x23#8 = some (s.temp.extractLsb' 8 8) := (if_neg (not_hold_register hc (by decide))).trans rfl

theorem readSr_temp2 : readSr s 0x24#8 = some (s.temp.extractLsb' 16 8) := (if_neg (not_hold_register hc (by decide))).trans rfl

theorem readSr_temp3 : readSr s 0x25#8 = some (s.temp.extractLsb' 24 8) := (if_neg (not_hold_register hc (by decide))).trans rfl

theorem readSr_err : readSr s 0x30#8 = some (errByte s.err) := (if_neg (not_hold_register hc (by decide))).trans rfl

theorem readSr_fault : readSr s 0x31#8 = some (faultByte s.fault) := (if_neg (not_hold_register hc (by decide))).trans rfl

theorem readSr_out : readSr s 0x32#8 = some (outByte s.out) := (if_neg (not_hold_register hc (by decide))).trans rfl

theorem readSr_pend : readSr s 0x33#8 = some (pendByte s.pend) := (if_neg (not_hold_register hc (by decide))).trans rfl

theorem readSr_sel : readSr s 0x34#8 = some (selByte s.selected) := (if_neg (not_hold_register hc (by decide))).trans rfl

end Registers

theorem holdOf_resetOf (c : Config) (m : Nat) : (State.resetOf c).holdOf m = 0 := by
  simp only [State.holdOf, State.resetOf, List.getD_eq_getElem?_getD, List.getElem?_replicate]
  split <;> rfl

/-- Right after reset nothing is held, so the deepest mode is selected. -/
theorem selected_resetOf (c : Config) : (State.resetOf c).selected = some (c.nmodes - 1) := by
  have : firstHeld c.nmodes (List.replicate c.nmodes 0) = none := by simp [firstHeld]
  simp [State.selected, State.resetOf, sel, this]

/-- R46's reset column. -/
theorem readSr_resetOf {c : Config} {n : Byte} (hc : c.nmodes ≤ 16) (hn : srListed c n = true) :
    readSr (State.resetOf c) n = some
      (if n = 0x13#8 then BitVec.ofNat 8 c.rbCap else if n = 0x20#8 then 0x02#8
       else if n = 0x34#8 then BitVec.ofNat 8 (c.nmodes - 1) else 0x00#8) := by
  by_cases hlt : n.toNat < c.nmodes
  · have hne : ∀ k : Byte, 16 ≤ k.toNat → n ≠ k := fun k hk he => not_hold_register hc hk (he ▸ hlt)
    rw [readSr_hold hlt, holdOf_resetOf, if_neg (hne _ (by decide)), if_neg (hne _ (by decide)),
      if_neg (hne _ (by decide)), Nat.zero_mod]
  · have hc' : (State.resetOf c).cfg.nmodes ≤ 16 := hc
    have hsel : some (selByte (State.resetOf c).selected) = some (BitVec.ofNat 8 (c.nmodes - 1)) := by
      rewrite [selected_resetOf]
      rfl
    have htemp : ∀ k, some (BitVec.extractLsb' k 8 (State.resetOf c).temp) = some 0x00#8 := fun k => by
      simp [State.resetOf]
    simp only [srListed, Bool.or_eq_true, Bool.and_eq_true, decide_eq_true_eq, hlt, false_or, or_assoc,
      srListed_fixed, List.mem_cons, List.not_mem_nil, or_false] at hn
    rcases hn with rfl | rfl | rfl | rfl | rfl | rfl | rfl | rfl | rfl | rfl | rfl | rfl | rfl | rfl | rfl
    exacts [readSr_count hc', readSr_head hc', readSr_tail hc', readSr_cap hc', readSr_ctr hc', readSr_dcFlags hc',
      (readSr_temp0 hc').trans (htemp 0), (readSr_temp1 hc').trans (htemp 8), (readSr_temp2 hc').trans (htemp 16),
      (readSr_temp3 hc').trans (htemp 24), readSr_err hc', readSr_fault hc', readSr_out hc', readSr_pend hc', (readSr_sel hc').trans hsel]

/-- Settles O33: the content column with the flag bytes bit by bit, then the reset column. -/
theorem statusRegistersShowTheCells : Obligations.StatusRegistersShowTheCells := by
  refine ⟨fun s n _ hc => ?_, fun c n hc hn => ?_⟩
  · have hctr : some s.ctr.byte = some (match s.ctr with | .powerUp => 0#8 | .dwell => 1#8 | .tearDown => 2#8) := by
      cases s.ctr <;> rfl
    have hsel : some (selByte s.selected) =
        some (match sel s.cfg.nmodes s.hold with | some m => BitVec.ofNat 8 m | none => 0xFF#8) := by
      rewrite [State.selected]
      cases sel s.cfg.nmodes s.hold <;> rfl
    exact ⟨readSr_hold, readSr_count hc, readSr_head hc, readSr_tail hc, readSr_cap hc, (readSr_ctr hc).trans hctr,
      (readSr_dcFlags hc).trans (congrArg some (byteOfBits_three _ _ _)), readSr_temp0 hc, readSr_temp1 hc,
      readSr_temp2 hc, readSr_temp3 hc, (readSr_err hc).trans (congrArg some (byteOfBits_five _ _ _ _ _)),
      (readSr_fault hc).trans (congrArg some (byteOfBits_two _ _)),
      (readSr_out hc).trans (congrArg some (byteOfBits_five _ _ _ _ _)),
      (readSr_pend hc).trans (congrArg some (byteOfBits_four _ _ _ _)), (readSr_sel hc).trans hsel, readSr_eq_none.mpr⟩
  · obtain ⟨-, hmodes, -⟩ := (configOk_iff c).mp hc
    exact readSr_resetOf hmodes hn

/-- Settles O35: nothing pending and nothing running, the step serves the word `RDSR 0x33`, and `PEND` reads zero. -/
theorem pendReadsZeroInMain : Obligations.PendReadsZeroInMain := by
  intro s u rest hu hr hp hw
  obtain ⟨hc, hx, ht⟩ := hr
  obtain ⟨-, hmodes, -⟩ := (configOk_iff u.cfg).mp hc
  have hdec : decodeCmd 0x40330000#32 = .ok (.rdsr 0x33#8) := by decide
  have hready : Ready { u with cmdIn := rest } := ⟨hc, hx, ht⟩
  have hread : readSr { u with cmdIn := rest } 0x33#8 = some (pendByte u.pend) := readSr_pend hmodes
  rewrite [step, hu, serve_command hx ht (pickEvent_zero hp), serveCommand_legal hw hdec, exec_rdsr_ready hready, rdsrRun,
    hread, hp]
  rfl

/-- Settles O54. -/
theorem resetValues : Obligations.ResetValues := fun c =>
  ⟨fun m _ => holdOf_resetOf c m, List.length_replicate, rfl, rfl, rfl, rfl, rfl, rfl, rfl, rfl, rfl, rfl, rfl, rfl, rfl, rfl⟩

end Sys2Proof.Machine

/-! ### Which operation writes which cells (10_state R30, R38) -/

namespace Sys2Proof.Machine
section Writers
variable {i : Instr} {s t : State}

/-- From `s` to `t` only cells are written that operation `i` may write. -/
structure WritesOnlyItsCells (i : Instr) (s t : State) : Prop where
  duty : i ≠ .period → t.ctr = s.ctr ∧ t.lastCmp = s.lastCmp ∧ t.led = s.led ∧ t.thr = s.thr ∧ t.temp = s.temp
  out : i ≠ .period → i ≠ .subint → t.out = s.out
  hold : i ≠ .period → i ≠ .txrdy → (∀ m, i ≠ .acq m ∧ i ≠ .rel m) → t.hold = s.hold
  ring : i ≠ .period → i ≠ .txrdy → i ≠ .deq → (∀ b, i ≠ .alloc b ∧ i ≠ .enq b) →
    t.rbCap = s.rbCap ∧ t.rbHead = s.rbHead ∧ t.rbTail = s.rbTail ∧ t.rbCount = s.rbCount ∧ t.rbMem = s.rbMem

theorem WritesOnlyItsCells.refl (i : Instr) (s : State) : WritesOnlyItsCells i s s :=
  ⟨fun _ => ⟨rfl, rfl, rfl, rfl, rfl⟩, fun _ _ => rfl, fun _ _ _ => rfl, fun _ _ _ _ => ⟨rfl, rfl, rfl, rfl, rfl⟩⟩

/-- The operations that may write the hold table, beside `PERIOD`. -/
def MayWriteHold (i : Instr) : Prop := i = .txrdy ∨ (∃ m, i = .acq m) ∨ ∃ m, i = .rel m

/-- The operations that may write the ring, beside `PERIOD`. -/
def MayWriteRing (i : Instr) : Prop := i = .txrdy ∨ i = .deq ∨ (∃ b, i = .alloc b) ∨ ∃ b, i = .enq b

theorem WritesOnlyItsCells.setHold (h : WritesOnlyItsCells i s t) (hi : MayWriteHold i) (m v : Nat) :
    WritesOnlyItsCells i s (t.setHold m v) :=
  { h with
    hold := fun _ htx hno => by
      rcases hi with hi | ⟨n, hi⟩ | ⟨n, hi⟩
      · exact absurd hi htx
      · exact absurd hi (hno n).1
      · exact absurd hi (hno n).2 }

theorem WritesOnlyItsCells.setRing (h : WritesOnlyItsCells i s t) (hi : MayWriteRing i) (cap head tail count : Byte)
    (m : Memory) :
    WritesOnlyItsCells i s { t with rbCap := cap, rbHead := head, rbTail := tail, rbCount := count, rbMem := m } :=
  { h with
    ring := fun _ htx hdeq hno => by
      rcases hi with hi | hi | ⟨b, hi⟩ | ⟨b, hi⟩
      · exact absurd hi htx
      · exact absurd hi hdeq
      · exact absurd hi (hno b).1
      · exact absurd hi (hno b).2 }

theorem WritesOnlyItsCells.setOut (h : WritesOnlyItsCells .subint s t) (o : OutLatch) :
    WritesOnlyItsCells .subint s (t.setOut o) :=
  { h with out := fun _ hno => absurd rfl hno }

/-- An update of any other field is no write of these cells. -/
theorem WritesOnlyItsCells.others (h : WritesOnlyItsCells i s t) {err : ErrFlags} {fault : FaultFlags} {pend : Pend}
    {ctx : Ctx} {task : Option Task} {env : Env} {trace : List Action} {rsp : List RspWord} :
    WritesOnlyItsCells i s
      { t with err := err, fault := fault, pend := pend, ctx := ctx, task := task, env := env, trace := trace, rsp := rsp } :=
  { h with }

theorem WritesOnlyItsCells.emit (h : WritesOnlyItsCells i s t) (a : Action) : WritesOnlyItsCells i s (t.emit a) :=
  h.others

theorem WritesOnlyItsCells.respond (h : WritesOnlyItsCells i s t) (st : Status) (d : Byte) :
    WritesOnlyItsCells i s (t.respond st d) := h.others

theorem WritesOnlyItsCells.setCtx (h : WritesOnlyItsCells i s t) (x : Ctx) : WritesOnlyItsCells i s (t.setCtx x) :=
  h.others

theorem WritesOnlyItsCells.handlerReturn (h : WritesOnlyItsCells i s t) : WritesOnlyItsCells i s t.handlerReturn :=
  h.others

/-- `PERIOD` may write every cell. -/
theorem writesOnlyItsCells_period (s t : State) : WritesOnlyItsCells .period s t :=
  ⟨fun h => absurd rfl h, fun h => absurd rfl h, fun h => absurd rfl h, fun h => absurd rfl h⟩

/-- Acceptance itself writes none of these cells. -/
theorem onCommand_writes {run : State → Out} (h : Keeps (WritesOnlyItsCells i s) (run s)) :
    Keeps (WritesOnlyItsCells i s) (onCommand run s) := by
  cases hc : configOk s.cfg with
  | false =>
    rewrite [onCommand_invalid hc]
    exact keeps_refused _ _
  | true =>
    rcases onCommand_cases (run := run) hc with ⟨-, -, e⟩ | ⟨-, e⟩ | ⟨-, -, e⟩ <;> rewrite [e]
    · exact h
    · exact keeps_next (WritesOnlyItsCells.refl i s).others
    · exact keeps_next (WritesOnlyItsCells.refl i s)

theorem latch_writes (i : Instr) (s : State) (e : EventCode) : WritesOnlyItsCells i s (s.latch e) := by
  unfold State.latch
  split
  · exact .refl i s
  · exact (WritesOnlyItsCells.refl i s).others

theorem onEvent_writes {e : EventCode} {k : State → Out}
    (h : ∀ t, WritesOnlyItsCells i s t → Keeps (WritesOnlyItsCells i s) (k t)) :
    Keeps (WritesOnlyItsCells i s) (onEvent e k s) := by
  cases hc : configOk s.cfg with
  | false =>
    rewrite [onEvent_invalid hc]
    exact keeps_refused _ _
  | true =>
    rcases onEvent_cases (e := e) (k := k) hc with ⟨-, -, eq⟩ | ⟨-, eq⟩ <;> rewrite [eq]
    · exact h _ (WritesOnlyItsCells.refl i s).others
    · exact keeps_next (latch_writes i s e)

theorem busRun_writes (h : WritesOnlyItsCells i s t) (f : List BusStep) (v : Byte) :
    WritesOnlyItsCells i s (busRun f v t).state :=
  busRun_keeps (WritesOnlyItsCells i s) (fun _ _ h => h.others) (fun _ _ h => h.others) (fun _ _ h => h.others)
    (fun _ h => h.others) f v t h

theorem sendNext_writes (h : WritesOnlyItsCells i s t) (hi : MayWriteRing i) :
    Keeps (WritesOnlyItsCells i s) (sendNext t) := by
  unfold sendNext
  rcases rbDequeue_cases t with ⟨-, e⟩ | ⟨-, -, e⟩ | ⟨-, -, -, e⟩ | ⟨-, -, v, -, e⟩ <;> rewrite [e]
  · exact keeps_next h.others
  · exact keeps_fault _ _
  · exact keeps_fault _ _
  · exact keeps_next (h.setRing hi ..).others

theorem txrdyHandler_writes (h : WritesOnlyItsCells .txrdy s t) : Keeps (WritesOnlyItsCells .txrdy s) (txrdyHandler t) := by
  unfold txrdyHandler
  split
  · rcases release_cases t.cfg.mTx t with ⟨-, e⟩ | ⟨-, e⟩ <;> rewrite [e]
    · exact keeps_next h.others
    · exact keeps_next (h.setHold (.inl rfl) _ _).handlerReturn
  · exact sendNext_writes h (.inl rfl)

theorem subintHandler_writes (h : WritesOnlyItsCells .subint s t) :
    Keeps (WritesOnlyItsCells .subint s) (subintHandler t) := by
  have harm : WritesOnlyItsCells .subint s ((t.driveAcmp true).drive .excite true) :=
    (((h.emit _).setOut _).emit _).setOut _
  unfold subintHandler warmWait
  split
  · exact keeps_next harm.others
  · exact keeps_next harm.others

theorem acqRun_writes (m : Byte) (s : State) : Keeps (WritesOnlyItsCells (.acq m) s) (acqRun m s) := by
  have hrefl := WritesOnlyItsCells.refl (.acq m) s
  unfold acqRun
  split
  · exact keeps_next hrefl.others
  · rcases acquire_cases m.toNat s with ⟨-, e⟩ | ⟨-, e⟩ <;> rewrite [e]
    · exact keeps_next hrefl.others
    · exact keeps_next (hrefl.setHold (.inr (.inl ⟨m, rfl⟩)) _ _).others

theorem relRun_writes (m : Byte) (s : State) : Keeps (WritesOnlyItsCells (.rel m) s) (relRun m s) := by
  have hrefl := WritesOnlyItsCells.refl (.rel m) s
  unfold relRun
  split
  · exact keeps_next hrefl.others
  · rcases release_cases m.toNat s with ⟨-, e⟩ | ⟨-, e⟩ <;> rewrite [e]
    · exact keeps_next hrefl.others
    · exact keeps_next (hrefl.setHold (.inr (.inr ⟨m, rfl⟩)) _ _).others

theorem enterRun_writes (s : State) : Keeps (WritesOnlyItsCells .enter s) (enterRun s) := by
  have hrefl := WritesOnlyItsCells.refl .enter s
  cases hsel : s.selected with
  | none =>
    rewrite [enterRun_none hsel]
    exact keeps_next hrefl.others
  | some m =>
    cases hp : s.pend.any with
    | true =>
      rewrite [enterRun_wakes hsel hp, State.wakeFrom_eq]
      exact keeps_next ((hrefl.emit _).setCtx _).others
    | false =>
      rewrite [enterRun_parks hsel hp]
      exact keeps_next ((hrefl.emit _).setCtx _)

theorem allocRun_writes (n : Byte) (s : State) : Keeps (WritesOnlyItsCells (.alloc n) s) (allocRun n s) := by
  have hrefl := WritesOnlyItsCells.refl (.alloc n) s
  unfold allocRun
  split
  · exact keeps_next hrefl.others
  · exact keeps_next (hrefl.setRing (.inr (.inr (.inl ⟨n, rfl⟩))) ..).others

theorem enqRun_writes (b : Byte) (s : State) : Keeps (WritesOnlyItsCells (.enq b) s) (enqRun b s) := by
  have hrefl := WritesOnlyItsCells.refl (.enq b) s
  unfold enqRun
  rcases rbEnqueue_cases b s with ⟨-, e⟩ | ⟨-, -, e⟩ | ⟨-, -, e⟩ <;> rewrite [e]
  · exact keeps_next hrefl.others
  · exact keeps_fault _ _
  · exact keeps_next (hrefl.setRing (.inr (.inr (.inr ⟨b, rfl⟩))) ..).others

theorem deqRun_writes (s : State) : Keeps (WritesOnlyItsCells .deq s) (deqRun s) := by
  have hrefl := WritesOnlyItsCells.refl .deq s
  unfold deqRun
  rcases rbDequeue_cases s with ⟨-, e⟩ | ⟨-, -, e⟩ | ⟨-, -, -, e⟩ | ⟨-, -, v, -, e⟩ <;> rewrite [e]
  · exact keeps_next hrefl.others
  · exact keeps_fault _ _
  · exact keeps_fault _ _
  · exact keeps_next (hrefl.setRing (.inr (.inl rfl)) ..).others

theorem readEnd_writes {b : BusEnd} (h : WritesOnlyItsCells i s b.state) : Keeps (WritesOnlyItsCells i s) (readEnd b) := by
  cases b with
  | done | timeout | waiting => exact keeps_next h.others

theorem writeEnd_writes {b : BusEnd} (h : WritesOnlyItsCells i s b.state) :
    Keeps (WritesOnlyItsCells i s) (writeEnd b) := by
  cases b with
  | done | timeout | waiting => exact keeps_next h.others

theorem execRdsr_writes (n : Byte) (s : State) : Keeps (WritesOnlyItsCells (.rdsr n) s) (execRdsr n s) := by
  have hrefl := WritesOnlyItsCells.refl (.rdsr n) s
  have hrun : Keeps (WritesOnlyItsCells (.rdsr n) s) (rdsrRun n s) := by
    unfold rdsrRun
    split <;> exact keeps_next hrefl.others
  unfold execRdsr
  split
  · split
    · exact keeps_refused _ _
    · exact keeps_next hrefl.others
  · exact onCommand_writes hrun

/-- Every operation writes only the cells it may write. -/
theorem exec_writes (i : Instr) (s : State) : Keeps (WritesOnlyItsCells i s) (exec i s) := by
  have hrefl := WritesOnlyItsCells.refl i s
  cases i with
  | acq m => exact onCommand_writes (acqRun_writes m s)
  | rel m => exact onCommand_writes (relRun_writes m s)
  | sel => exact onCommand_writes (keeps_next hrefl.others)
  | enter => exact onCommand_writes (enterRun_writes s)
  | alloc n => exact onCommand_writes (allocRun_writes n s)
  | enq b => exact onCommand_writes (enqRun_writes b s)
  | deq => exact onCommand_writes (deqRun_writes s)
  | rdreg a => exact onCommand_writes (readEnd_writes (busRun_writes hrefl _ _))
  | wrreg a v => exact onCommand_writes (writeEnd_writes (busRun_writes hrefl _ _))
  | rdsr n => exact execRdsr_writes n s
  | subint => exact onEvent_writes fun _ => subintHandler_writes
  | period => exact fun t _ => writesOnlyItsCells_period s t
  | txrdy => exact onEvent_writes fun _ => txrdyHandler_writes
  | edge => exact onEvent_writes fun _ h => keeps_next (h.emit _).handlerReturn

/-- The configuration, the command port, the slots to come and the count of choices are as in `s`. -/
def SamePlatform (s t : State) : Prop :=
  t.cfg = s.cfg ∧ t.cmdIn = s.cmdIn ∧ t.script = s.script ∧ t.choiceIx = s.choiceIx

/-- No single update writes the platform's fields. -/
theorem closed_samePlatform (s : State) : Closed (SamePlatform s) := by
  constructor <;> intros <;> assumption

end Writers

/-- Settles O48: each operation writes only its cells, and none writes the platform's fields. -/
theorem cellsHaveTheirWriters : Obligations.CellsHaveTheirWriters := by
  intro i s t h
  have hw := exec_writes i s t h
  exact ⟨hw.duty, hw.out, hw.hold, hw.ring, exec_keeps (closed_samePlatform s) i ⟨rfl, rfl, rfl, rfl⟩ t h⟩

end Sys2Proof.Machine

/-! ### Waiting (10_state R40)

An operation is run twice, with the answers ready and with more behind them. Each stage of an operation is compared with
itself: where the first run ends at a wait, the second is what the task makes of the further answers. -/

namespace Sys2Proof.Machine
section Waiting
variable {e : Env} {s : State}

/-- If a run ends at a wait, `o'` is going on from there with the answers `e` too. -/
def GoesOn (e : Env) (o o' : Out) : Prop :=
  ∀ t k, o = .next t → t.task = some k → o' = resumeRun k ((t.setTask none).moreAnswers e)

/-- A next state in which nothing waits. -/
abbrev EndsIdle (o : Out) : Prop := Keeps (fun t => t.task = none) o

theorem goesOn_of_endsIdle {o o' : Out} (h : EndsIdle o) : GoesOn e o o' := by
  intro t k ho hk
  rewrite [h t ho] at hk
  cases hk

theorem goesOn_suspend {k : Task} {o' : Out} (ht : s.task = none) (h : o' = resumeRun k (s.moreAnswers e)) :
    GoesOn e (suspend k s) o' := by
  intro t k' ho hk
  have hs : (s.setTask (some k)).setTask none = s := by
    rewrite [← ht]
    rfl
  cases ho
  cases hk
  rewrite [hs]
  exact h

theorem endsIdle_next (ht : s.task = none) : EndsIdle (.next s) := keeps_next ht

/-! ### The stages that never wait -/

theorem acquire_endsIdle {k : State → Out} {m : Nat} (ht : s.task = none)
    (hk : ∀ t, t.task = none → EndsIdle (k t)) : EndsIdle (afterHold k (acquire m s)) := by
  rcases acquire_cases m s with ⟨-, eq⟩ | ⟨-, eq⟩ <;> rewrite [eq]
  · exact endsIdle_next rfl
  · exact hk _ ht

theorem release_endsIdle {k : State → Out} {m : Nat} (ht : s.task = none)
    (hk : ∀ t, t.task = none → EndsIdle (k t)) : EndsIdle (afterHold k (release m s)) := by
  rcases release_cases m s with ⟨-, eq⟩ | ⟨-, eq⟩ <;> rewrite [eq]
  · exact endsIdle_next rfl
  · exact hk _ ht

theorem sendNext_endsIdle (ht : s.task = none) : EndsIdle (sendNext s) := by
  unfold sendNext
  rcases rbDequeue_cases s with ⟨-, eq⟩ | ⟨-, -, eq⟩ | ⟨-, -, -, eq⟩ | ⟨-, -, v, -, eq⟩ <;> rewrite [eq]
  · exact endsIdle_next (by simp [ht])
  · exact keeps_fault _ _
  · exact keeps_fault _ _
  · exact endsIdle_next (by simp [ht])

theorem enqueueAll_task (bytes : List Byte) : ∀ s : State,
    (∀ t, enqueueAll bytes s = .stored t → t.task = s.task) ∧ (∀ t, enqueueAll bytes s = .full t → t.task = s.task) := by
  induction bytes with
  | nil => exact fun s => by simp [enqueueAll, eq_comm]
  | cons b bytes ih =>
    intro s
    unfold enqueueAll
    rcases rbEnqueue_cases b s with ⟨-, eq⟩ | ⟨-, -, eq⟩ | ⟨-, -, eq⟩ <;> rewrite [eq]
    · simp
    · simp
    · exact ih _

theorem handOff_endsIdle (ht : s.task = none) : EndsIdle (handOff s) := by
  obtain ⟨hstored, hfull⟩ := enqueueAll_task (burst s) (s.rbAllocate (BitVec.ofNat 8 s.cfg.rbCap))
  unfold handOff
  split
  · exact acquire_endsIdle ((hstored _ ‹_›).trans ht) fun _ => sendNext_endsIdle
  · have hfull := hfull _ ‹_›
    exact endsIdle_next (by simp [hfull, ht])
  · exact keeps_fault _ _

theorem txrdyHandler_endsIdle (ht : s.task = none) : EndsIdle (txrdyHandler s) := by
  unfold txrdyHandler
  split
  · exact release_endsIdle ht fun t ht => endsIdle_next (by simp [ht])
  · exact sendNext_endsIdle ht

theorem acqRun_endsIdle (m : Byte) (ht : s.task = none) : EndsIdle (acqRun m s) := by
  unfold acqRun
  split
  · exact endsIdle_next (by simp [ht])
  · rcases acquire_cases m.toNat s with ⟨-, eq⟩ | ⟨-, eq⟩ <;> rewrite [eq]
    · exact endsIdle_next rfl
    · exact endsIdle_next (by simp [ht])

theorem relRun_endsIdle (m : Byte) (ht : s.task = none) : EndsIdle (relRun m s) := by
  unfold relRun
  split
  · exact endsIdle_next (by simp [ht])
  · rcases release_cases m.toNat s with ⟨-, eq⟩ | ⟨-, eq⟩ <;> rewrite [eq]
    · exact endsIdle_next rfl
    · exact endsIdle_next (by simp [ht])

theorem enterRun_endsIdle (ht : s.task = none) : EndsIdle (enterRun s) := by
  cases hsel : s.selected with
  | none =>
    rewrite [enterRun_none hsel]
    exact endsIdle_next ht
  | some m =>
    cases hp : s.pend.any with
    | true =>
      rewrite [enterRun_wakes hsel hp, State.wakeFrom_eq]
      exact endsIdle_next ht
    | false =>
      rewrite [enterRun_parks hsel hp]
      exact endsIdle_next ht

theorem allocRun_endsIdle (n : Byte) (ht : s.task = none) : EndsIdle (allocRun n s) := by
  unfold allocRun
  split
  · exact endsIdle_next (by simp [ht])
  · exact endsIdle_next (by simp [ht])

theorem enqRun_endsIdle (b : Byte) (ht : s.task = none) : EndsIdle (enqRun b s) := by
  unfold enqRun
  rcases rbEnqueue_cases b s with ⟨-, eq⟩ | ⟨-, -, eq⟩ | ⟨-, -, eq⟩ <;> rewrite [eq]
  · exact endsIdle_next (by simp [ht])
  · exact keeps_fault _ _
  · exact endsIdle_next (by simp [ht])

theorem deqRun_endsIdle (ht : s.task = none) : EndsIdle (deqRun s) := by
  unfold deqRun
  rcases rbDequeue_cases s with ⟨-, eq⟩ | ⟨-, -, eq⟩ | ⟨-, -, -, eq⟩ | ⟨-, -, v, -, eq⟩ <;> rewrite [eq]
  · exact endsIdle_next (by simp [ht])
  · exact keeps_fault _ _
  · exact keeps_fault _ _
  · exact endsIdle_next (by simp [ht])

theorem rdsrRun_endsIdle (n : Byte) (ht : s.task = none) : EndsIdle (rdsrRun n s) := by
  unfold rdsrRun
  split
  · exact endsIdle_next (by simp [ht])
  · exact endsIdle_next (by simp [ht])

/-! ### The run of an exchange -/

/-- No acknowledgment wait follows the data wait, as in both frames of 30_encoding R116: so a run that stays at a wait has
received no byte yet. -/
def AcksBeforeData : List BusStep → Prop
  | [] => True
  | .send _ :: rest => AcksBeforeData rest
  | .ack :: rest => AcksBeforeData rest
  | .rx :: rest => waitsOf rest = 0

theorem acksBeforeData_writeFrame (c : Config) (a v : Byte) : AcksBeforeData (writeFrame c a v) := trivial

theorem acksBeforeData_readFrame (c : Config) (a : Byte) : AcksBeforeData (readFrame c a) := rfl

/-- How a run of an exchange compares with the run `b'` that has the answers `e` too. -/
def BusMore (e : Env) (v : Byte) : BusEnd → BusEnd → Prop
  | .done w t, b' => t.task = none ∧ b' = .done w (t.moreAnswers e)
  | .timeout t, b' => t.task = none ∧ b' = .timeout (t.moreAnswers e)
  | .waiting left t, b' => t.task = none ∧ b' = busRun left v (t.moreAnswers e)

theorem abandon_moreAnswers (s : State) (e : Env) : s.abandon.moreAnswers e = (s.moreAnswers e).abandon := by
  have hc : (s.moreAnswers e).cfg = s.cfg := rfl
  unfold State.abandon
  rewrite [hc]
  split <;> rfl

theorem abandon_task (s : State) : s.abandon.task = s.task := by
  unfold State.abandon
  split <;> rfl

/-- Without waits a run completes. -/
theorem busRun_more_of_no_waits (v : Byte) {f : List BusStep} (hf : waitsOf f = 0) :
    ∀ w {s : State}, s.task = none → BusMore e v (busRun f w s) (busRun f w (s.moreAnswers e)) := by
  induction f with
  | nil => exact fun w s ht => ⟨ht, rfl⟩
  | cons x f ih =>
    cases x with
    | send sym => exact fun w s ht => ih hf w (s := s.emit (.bus sym)) ht
    | ack => cases hf
    | rx => cases hf

theorem busRun_more (v : Byte) {f : List BusStep} (hf : AcksBeforeData f) :
    ∀ {s : State}, s.task = none → BusMore e v (busRun f v s) (busRun f v (s.moreAnswers e)) := by
  induction f with
  | nil => exact fun ht => ⟨ht, rfl⟩
  | cons x f ih =>
    intro s ht
    cases x with
    | send sym => exact ih hf (s := s.emit (.bus sym)) ht
    | ack =>
      cases hb : s.env.busAck with
      | nil =>
        rewrite [busRun_ack_waits hb]
        exact ⟨ht, rfl⟩
      | cons a more =>
        have hb' : (s.moreAnswers e).env.busAck = a :: (more ++ e.busAck) := congrArg (· ++ e.busAck) hb
        cases a with
        | true =>
          rewrite [busRun_ack_true hb, busRun_ack_true hb']
          exact ih hf (s := s.setEnv { s.env with busAck := more }) ht
        | false =>
          rewrite [busRun_ack_false hb, busRun_ack_false hb']
          exact ⟨(abandon_task _).trans ht,
            congrArg BusEnd.timeout (abandon_moreAnswers (s.setEnv { s.env with busAck := more }) e).symm⟩
    | rx =>
      cases hb : s.env.busRx with
      | nil =>
        rewrite [busRun_rx_waits hb]
        exact ⟨ht, rfl⟩
      | cons a more =>
        have hb' : (s.moreAnswers e).env.busRx = a :: (more ++ e.busRx) := congrArg (· ++ e.busRx) hb
        cases a with
        | some w =>
          rewrite [busRun_rx_some hb, busRun_rx_some hb']
          exact busRun_more_of_no_waits v hf w (s := s.setEnv { s.env with busRx := more }) ht
        | none =>
          rewrite [busRun_rx_none hb, busRun_rx_none hb']
          exact ⟨(abandon_task _).trans ht,
            congrArg BusEnd.timeout (abandon_moreAnswers (s.setEnv { s.env with busRx := more }) e).symm⟩

theorem readEnd_goesOn {b b' : BusEnd} (h : BusMore e 0x00#8 b b') : GoesOn e (readEnd b) (readEnd b') := by
  cases b with
  | done w t => exact goesOn_of_endsIdle (keeps_next h.1)
  | timeout t => exact goesOn_of_endsIdle (keeps_next h.1)
  | waiting left t => exact goesOn_suspend (k := .readReg left) h.1 (congrArg readEnd h.2)

theorem writeEnd_goesOn {b b' : BusEnd} (h : BusMore e 0x00#8 b b') : GoesOn e (writeEnd b) (writeEnd b') := by
  cases b with
  | done w t => exact goesOn_of_endsIdle (keeps_next h.1)
  | timeout t => exact goesOn_of_endsIdle (keeps_next h.1)
  | waiting left t => exact goesOn_suspend (k := .writeReg left) h.1 (congrArg writeEnd h.2)

/-! ### `PERIOD` -/

/-- A stage after a hold goes on if it does from every state the hold can leave: further answers change no counter. -/
theorem acquire_goesOn {k : State → Out} {m : Nat} (ht : s.task = none)
    (hk : ∀ t, t.task = none → GoesOn e (k t) (k (t.moreAnswers e))) :
    GoesOn e (afterHold k (acquire m s)) (afterHold k (acquire m (s.moreAnswers e))) := by
  rcases acquire_cases m s with ⟨-, eq⟩ | ⟨hne, eq⟩ <;> rewrite [eq]
  · exact goesOn_of_endsIdle (keeps_next rfl)
  · rewrite [acquire_ok (s := s.moreAnswers e) hne]
    exact hk _ ht

theorem release_goesOn {k : State → Out} {m : Nat} (ht : s.task = none)
    (hk : ∀ t, t.task = none → GoesOn e (k t) (k (t.moreAnswers e))) :
    GoesOn e (afterHold k (release m s)) (afterHold k (release m (s.moreAnswers e))) := by
  rcases release_cases m s with ⟨-, eq⟩ | ⟨hne, eq⟩ <;> rewrite [eq]
  · exact goesOn_of_endsIdle (keeps_next rfl)
  · rewrite [release_ok (s := s.moreAnswers e) hne]
    exact hk _ ht

theorem hysteresis_comparatorOff_task (s : State) (c : Bool) : (s.comparatorOff.hysteresis c).task = s.task := by
  rw [State.hysteresis_task, State.comparatorOff_task]

theorem readComparator_goesOn (ht : s.task = none) : GoesOn e (readComparator s) (readComparator (s.moreAnswers e)) := by
  cases ha : s.env.acmpOut with
  | nil =>
    have hs : readComparator s = suspend .acmpOut s := by simp only [readComparator, ha]
    rewrite [hs]
    exact goesOn_suspend ht rfl
  | cons c more =>
    refine goesOn_of_endsIdle ?_
    unfold readComparator
    rewrite [ha]
    exact handOff_endsIdle ((hysteresis_comparatorOff_task _ c).trans ht)

/-- How a conversion compares with the conversion `a'` that has the answers `e` too. -/
def SampleMore (e : Env) : Sample → Sample → Prop
  | .code c t, a' => t.task = none ∧ a' = .code c (t.moreAnswers e)
  | .notDone t, a' => t.task = none ∧ a' = adcWait (t.moreAnswers e)
  | .noResult t, a' => t.task = none ∧ a' = adcRead (t.moreAnswers e)
  | .tooWide, _ => True

theorem adcRead_more (ht : s.task = none) : SampleMore e (adcRead s) (adcRead (s.moreAnswers e)) := by
  cases hr : s.env.adcResult with
  | nil =>
    have hs : adcRead s = .noResult s := by simp only [adcRead, hr]
    rewrite [hs]
    exact ⟨ht, rfl⟩
  | cons c more =>
    have hr' : (s.moreAnswers e).env.adcResult = c :: (more ++ e.adcResult) := congrArg (· ++ e.adcResult) hr
    have hc : (s.moreAnswers e).cfg = s.cfg := rfl
    simp only [adcRead, hr, hr', hc]
    split
    · exact ⟨ht, rfl⟩
    · trivial

theorem adcWait_more (ht : s.task = none) : SampleMore e (adcWait s) (adcWait (s.moreAnswers e)) := by
  have hd' : (s.moreAnswers e).env.adcDone = s.env.adcDone ++ e.adcDone := rfl
  cases hd : s.env.adcDone.dropWhile (fun a => !a) with
  | nil =>
    have hs : adcWait s = .notDone (s.setEnv { s.env with adcDone := [] }) := by simp only [adcWait, hd]
    have hskip : (s.env.adcDone ++ e.adcDone).dropWhile (fun a => !a) = e.adcDone.dropWhile (fun a => !a) := by
      rewrite [List.dropWhile_append, hd]
      rfl
    rewrite [hs]
    refine ⟨ht, ?_⟩
    unfold adcWait
    rewrite [hd', hskip]
    rfl
  | cons a more =>
    have hd'' : (s.env.adcDone ++ e.adcDone).dropWhile (fun a => !a) = a :: (more ++ e.adcDone) := by
      rewrite [List.dropWhile_append, hd]
      rfl
    simp only [adcWait, hd, hd', hd'']
    exact adcRead_more (s := s.setEnv { s.env with adcDone := more }) ht

theorem storeTemp_goesOn (total : Nat) (ht : s.task = none) :
    GoesOn e (storeTemp total s) (storeTemp total (s.moreAnswers e)) := by
  have hc : (s.moreAnswers e).cfg = s.cfg := rfl
  unfold storeTemp
  rewrite [hc]
  split
  · intro t k h
    cases h
  · exact release_goesOn (s := s.setTemp _) ht fun _ => readComparator_goesOn

theorem adcResume_goesOn {more total : Nat} {a a' : Sample} (h : SampleMore e a a')
    (hloop : ∀ total t, t.task = none →
      GoesOn e (adcEnd (adcLoop more total t)) (adcEnd (adcLoop more total (t.moreAnswers e)))) :
    GoesOn e (adcEnd (adcResume more total a)) (adcEnd (adcResume more total a')) := by
  cases a with
  | code c t =>
    rewrite [h.2]
    exact hloop _ t h.1
  | notDone t =>
    rewrite [h.2]
    exact goesOn_suspend h.1 rfl
  | noResult t =>
    rewrite [h.2]
    exact goesOn_suspend h.1 rfl
  | tooWide =>
    intro t k ho
    cases ho

theorem adcLoop_goesOn (n : Nat) : ∀ total s, s.task = none →
    GoesOn e (adcEnd (adcLoop n total s)) (adcEnd (adcLoop n total (s.moreAnswers e))) := by
  induction n with
  | zero => exact fun total s ht => storeTemp_goesOn total ht
  | succ n ih =>
    intro total s ht
    rewrite [adcLoop_succ, adcLoop_succ]
    exact adcResume_goesOn (adcWait_more (s := s.emit .adcStart) ht) ih

theorem sampleTemp_goesOn (ht : s.task = none) : GoesOn e (sampleTemp s) (sampleTemp (s.moreAnswers e)) :=
  acquire_goesOn ht fun t => adcLoop_goesOn t.cfg.adcSamples 0 t

/-- How the writes of phase 0 compare with the writes `w'` that have the answers `e` too. -/
def WritesMore (e : Env) : WritesEnd → WritesEnd → Prop
  | .done t, w' => t.task = none ∧ w' = .done (t.moreAnswers e)
  | .waiting k t, w' => t.task = none ∧ powerUpEnd w' = resumeRun k (t.moreAnswers e)

theorem configResume_more {rest : List (Byte × Byte)} {b b' : BusEnd} (h : BusMore e 0x00#8 b b')
    (hrest : ∀ t, t.task = none → WritesMore e (configWrites rest t) (configWrites rest (t.moreAnswers e))) :
    WritesMore e (configResume rest b) (configResume rest b') := by
  cases b with
  | done w t =>
    rewrite [h.2]
    exact hrest t h.1
  | timeout t =>
    rewrite [h.2]
    exact ⟨h.1, rfl⟩
  | waiting left t =>
    rewrite [h.2]
    exact ⟨h.1, rfl⟩

theorem configWrites_more (writes : List (Byte × Byte)) : ∀ s : State, s.task = none →
    WritesMore e (configWrites writes s) (configWrites writes (s.moreAnswers e)) := by
  induction writes with
  | nil => exact fun s ht => ⟨ht, rfl⟩
  | cons w writes ih =>
    intro s ht
    rewrite [configWrites_cons, configWrites_cons]
    exact configResume_more (busRun_more _ (acksBeforeData_writeFrame s.cfg _ _) ht) ih

theorem powerUpEnd_goesOn {w w' : WritesEnd} (h : WritesMore e w w') : GoesOn e (powerUpEnd w) (powerUpEnd w') := by
  cases w with
  | done t =>
    rewrite [h.2]
    exact sampleTemp_goesOn (s := t.driveEdgeIrq true) h.1
  | waiting k t => exact goesOn_suspend h.1 h.2

theorem powerOff_goesOn (ht : s.task = none) : GoesOn e (powerOff s) (powerOff (s.moreAnswers e)) :=
  release_goesOn (s := s.drive .pwrEn false) ht fun _ => sampleTemp_goesOn

theorem tearDownEnd_goesOn {b b' : BusEnd} (h : BusMore e 0x00#8 b b') : GoesOn e (tearDownEnd b) (tearDownEnd b') := by
  cases b with
  | done w t =>
    rewrite [h.2]
    exact powerOff_goesOn h.1
  | timeout t =>
    rewrite [h.2]
    exact powerOff_goesOn h.1
  | waiting left t =>
    rewrite [h.2]
    exact goesOn_suspend h.1 rfl

theorem periodHandler_goesOn (ht : s.task = none) : GoesOn e (periodHandler s) (periodHandler (s.moreAnswers e)) := by
  have hctr : (s.moreAnswers e).ctr = s.ctr := rfl
  unfold periodHandler
  rewrite [hctr]
  split
  · exact acquire_goesOn (s := s.setCtr .powerUp) ht fun t ht =>
      powerUpEnd_goesOn (configWrites_more t.cfg.cfgSeq ((t.drive .pwrEn true).emit (.delay t.cfg.settle)) ht)
  · exact sampleTemp_goesOn (s := s.setCtr .dwell) ht
  · exact tearDownEnd_goesOn
      (busRun_more (s := (s.setCtr .tearDown).driveEdgeIrq false) _ (acksBeforeData_writeFrame s.cfg _ _) ht)

theorem warmWait_goesOn (ht : s.task = none) : GoesOn e (warmWait s) (warmWait (s.moreAnswers e)) := by
  cases hw : s.env.acmpWarm.dropWhile (fun a => !a) with
  | nil =>
    have hs : warmWait s = suspend .subintWarm (s.setEnv { s.env with acmpWarm := [] }) := by simp only [warmWait, hw]
    have hw' : (s.moreAnswers e).env.acmpWarm = s.env.acmpWarm ++ e.acmpWarm := rfl
    have hskip : (s.env.acmpWarm ++ e.acmpWarm).dropWhile (fun a => !a) = e.acmpWarm.dropWhile (fun a => !a) := by
      rewrite [List.dropWhile_append, hw]
      rfl
    rewrite [hs]
    refine goesOn_suspend ht ?_
    show warmWait (s.moreAnswers e) = warmWait _
    unfold warmWait
    rewrite [hw', hskip]
    rfl
  | cons a more =>
    refine goesOn_of_endsIdle ?_
    unfold warmWait
    rewrite [hw]
    exact keeps_next ht

theorem subintHandler_goesOn (ht : s.task = none) : GoesOn e (subintHandler s) (subintHandler (s.moreAnswers e)) :=
  warmWait_goesOn (s := (s.driveAcmp true).drive .excite true) (by simp [ht])

/-! ### Every operation -/

/-- Every operation that starts ready goes on from its waits as if it had had the answers from the start. -/
theorem exec_goesOn (i : Instr) (h : Ready s) : GoesOn e (exec i s) (exec i (s.moreAnswers e)) := by
  have h' : Ready (s.moreAnswers e) := h
  have ht : s.task = none := h.2.2
  cases i with
  | acq m => rewrite [exec_acq_ready h]; exact goesOn_of_endsIdle (acqRun_endsIdle m ht)
  | rel m => rewrite [exec_rel_ready h]; exact goesOn_of_endsIdle (relRun_endsIdle m ht)
  | sel => rewrite [exec_sel_ready h]; exact goesOn_of_endsIdle (endsIdle_next (by simp [ht]))
  | enter => rewrite [exec_enter_ready h]; exact goesOn_of_endsIdle (enterRun_endsIdle ht)
  | alloc n => rewrite [exec_alloc_ready h]; exact goesOn_of_endsIdle (allocRun_endsIdle n ht)
  | enq b => rewrite [exec_enq_ready h]; exact goesOn_of_endsIdle (enqRun_endsIdle b ht)
  | deq => rewrite [exec_deq_ready h]; exact goesOn_of_endsIdle (deqRun_endsIdle ht)
  | rdreg a =>
    rewrite [exec_rdreg_ready h, exec_rdreg_ready h']
    exact readEnd_goesOn (busRun_more _ (acksBeforeData_readFrame s.cfg a) ht)
  | wrreg a v =>
    rewrite [exec_wrreg_ready h, exec_wrreg_ready h']
    exact writeEnd_goesOn (busRun_more _ (acksBeforeData_writeFrame s.cfg a v) ht)
  | rdsr n => rewrite [exec_rdsr_ready h]; exact goesOn_of_endsIdle (rdsrRun_endsIdle n ht)
  | subint =>
    rewrite [exec_subint_ready h, exec_subint_ready h']
    exact subintHandler_goesOn (s := s.takeEvent .subint) (by simp [ht])
  | period =>
    rewrite [exec_period_ready h, exec_period_ready h']
    exact periodHandler_goesOn (s := s.takeEvent .period) (by simp [ht])
  | txrdy =>
    rewrite [exec_txrdy_ready h]
    exact goesOn_of_endsIdle (txrdyHandler_endsIdle (by simp [ht]))
  | edge => rewrite [exec_edge_ready h]; exact goesOn_of_endsIdle (endsIdle_next (by simp [ht]))

end Waiting

/-- Settles O49: the operation goes on as its task says, and the record is the one it started under. -/
theorem waitingIsTransparent : Obligations.WaitingIsTransparent := by
  intro i s s1 k e h hs ht
  obtain ⟨hcfg, -⟩ := exec_keeps (closed_samePlatform s) i ⟨rfl, rfl, rfl, rfl⟩ s1 hs
  have hok : configOk (s1.moreAnswers e).cfg = true := (congrArg configOk hcfg).trans h.1
  rewrite [exec_goesOn i h s1 k hs ht, resume, if_neg (by simp [hok])]
  rfl

end Sys2Proof.Machine

end
